-- ==== Sys2Proof/Config.lean ====
section
/-! DEFINITION. What is fixed for one block (R7 of 00_scope.md) and the values the spec leaves unspecified. -/

namespace Sys2Proof

/-- The width of a request word `Q[33:0]` (R60), which `REQ_BITS` names. -/
abbrev requestWidth : Nat := 34

/-- The width of a response word `P[34:0]` (R66), which `RSP_BITS` names. -/
abbrev responseWidth : Nat := 35

/-- The parameters of R7 of 00_scope.md, one field each.  The type of a field admits exactly the values R7 gives: the
range of `PT_CAPACITY`, which is open, and the one value of a parameter that is decided (assumptions 7 and 14). -/
structure Config where
  /-- `PT_CAPACITY`, the number of 32-bit entries the table storage can hold: 1 to `2^20`, by default `2^20` (D9). -/
  ptCapacity : { n : Nat // 1 ≤ n ∧ n ≤ 2 ^ 20 } := ⟨2 ^ 20, by decide⟩
  /-- `FRAME_LSB`, the bit of a PTE at which the frame number begins: 12, for every configuration of a block (D4, R32). -/
  frameLsb : { n : Nat // n = 12 } := ⟨12, rfl⟩
  /-- `REQ_BITS`, the width of a request word: 34 (D2). -/
  requestBits : { n : Nat // n = requestWidth } := ⟨34, rfl⟩
  /-- `RSP_BITS`, the width of a response word: 35 (D3). -/
  responseBits : { n : Nat // n = responseWidth } := ⟨35, rfl⟩
deriving DecidableEq, Repr

/-- `FRAME_BITS` (R6): the width of the frame number. -/
abbrev Config.frameBits : Nat := 20

/-- FREE VALUE: what a register holds after a reset event (R38 of 10_state.md, R160 of 70_reset_and_hazards.md, U2 of
93_implementation_defined.md): the `k`-th value drawn, at width `w`.  It has no body, so nothing constrains it
(assumption 4). -/
opaque Config.unspecifiedRegister (w k : Nat) : BitVec w

/-- FREE VALUE: the `pa` bits of the `k`-th response word when that response carries no address (R68 of
30_encoding.md, U1).  It has no body, so nothing constrains it (assumption 6). -/
opaque Config.unspecifiedPa (k : Nat) : BitVec 32

end Sys2Proof
end

