-- ==== Sys2Proof/Word.lean ====
section
/-! DEFINITION. The words of the block (R6, R8 of 00_scope.md; R60, R66 of 30_encoding.md): all unsigned, bit 0 the
least significant. -/

namespace Sys2Proof

/-- A 32-bit word: virtual addresses, physical addresses, masks (R6). -/
abbrev Word := BitVec 32

/-- A page-table entry, a 32-bit word (R6; its fields: R32 of 10_state.md). -/
abbrev Pte := BitVec 32

/-- A request word `Q[33:0]` (R60). -/
abbrev RequestWord := BitVec requestWidth

/-- A response word `P[34:0]` (R66). -/
abbrev ResponseWord := BitVec responseWidth

/-- `word32(n)` of the pseudocode (R91): the 32-bit word whose natural number is `n`, for `n < 2^32`. -/
abbrev word32 (n : Nat) : Word := BitVec.ofNat 32 n

end Sys2Proof
end

