-- ==== Sys2Proof/Syntax.lean ====
section
/-! DEFINITION. The operations of the block: one constructor per row of spec/opcode_table.json. -/

namespace Sys2Proof

/-- The two operations (R11 of 00_scope.md; rows BUILD and TRANSLATE of the opcode table). -/
inductive Instr where
  /-- `BUILD asb, pb` (R80 of 40_build.md): `asb` a natural from 0 to 63, `pb` a natural from 0 to 8191; the ranges
  are checked by `Instr.wf`. -/
  | build (asb pb : Nat)
  /-- `TRANSLATE va` (R100 of 41_translate.md): every 32-bit value is a legal operand. -/
  | translate (va : Word)
deriving DecidableEq, Repr

end Sys2Proof
end

