-- ==== Sys2Proof/WellFormed.lean ====
section
/-! DEFINITION. Which operations can be written as a request word (R62 of 30_encoding.md: a value outside a field's
range "cannot be encoded at all"). -/

namespace Sys2Proof

/-- The `asb` field has 6 bits (R60, R62). -/
def asbFits (asb : Nat) : Bool := decide (asb ≤ 63)

/-- The `pb` field has 13 bits (R60, R62). -/
def pbFits (pb : Nat) : Bool := decide (pb ≤ 8191)

/-- Every operand fits its field. -/
def Instr.wf : Instr → Bool
  | .build asb pb => asbFits asb && pbFits pb
  | .translate _ => true

end Sys2Proof
end

