-- ==== Sys2Proof/Decode.lean ====
section
/-! DEFINITION. Request words to operations and back (R60 to R65 of 30_encoding.md). -/

namespace Sys2Proof

/-- `op = Q[33:32]` (R60). -/
def opField (q : RequestWord) : BitVec 2 := q.extractLsb' 32 2

/-- `rsv = Q[31:19]`, format B (R60). -/
def rsvField (q : RequestWord) : BitVec 13 := q.extractLsb' 19 13

/-- `pb = Q[18:6]`, format B (R60). -/
def pbField (q : RequestWord) : BitVec 13 := q.extractLsb' 6 13

/-- `asb = Q[5:0]`, format B (R60). -/
def asbField (q : RequestWord) : BitVec 6 := q.extractLsb' 0 6

/-- `va = Q[31:0]`, format T (R60). -/
def vaField (q : RequestWord) : Word := q.extractLsb' 0 32

/-- The decoder of R64, total over the 34-bit words; `none` is `invalid` (R65). -/
def decode (q : RequestWord) : Option Instr :=
  if opField q = 0b00#2 ∧ rsvField q = 0#13 then some (.build (asbField q).toNat (pbField q).toNat)
  else if opField q = 0b01#2 then some (.translate (vaField q))
  else none

/-- The request word of an operation whose operands fit their fields, field by field from R60. -/
def encode : Instr → RequestWord
  | .build asb pb => 0b00#2 ++ 0#13 ++ BitVec.ofNat 13 pb ++ BitVec.ofNat 6 asb
  | .translate va => 0b01#2 ++ va

/-- The request word whose bits are those of `w` below `nbits`; none where a bit at `requestBits` or above is set,
since a request is one word of `REQ_BITS` bits and has no such bit (R60, R70). -/
def tableWord (requestBits nbits w : Nat) : Option RequestWord :=
  let v := w % 2 ^ nbits
  if v < 2 ^ requestBits then some (BitVec.ofNat requestWidth v) else none

/-- What the decoder reads from a word numbered as spec/opcode_table.json numbers it. -/
def decodeTableWord (nbits w : Nat) : Option Instr := (tableWord requestWidth nbits w).bind decode

end Sys2Proof
end

