-- ==== Sys2Proof/Machine/State.lean ====
section
/-! DEFINITION. The state of the block as plain data (10_state.md), the results it returns (R10 of 00_scope.md), the
reasons a step can stop, and the state after reset (R38). -/

namespace Sys2Proof.Machine

/-- `STATE` (R24 of 10_state.md).  The reserved value 3 is never taken, so no constructor stands for it (U9). -/
inductive Lifecycle where
  | unconfigured
  | ready
  | halted
deriving DecidableEq, Repr

/-- The three translation faults (R10, R130): values TRANSLATE returns, not stops of the machine (R136). -/
inductive FaultKind where
  | notValid
  | notAccessible
  | outOfRange
deriving DecidableEq, Repr

/-- The result of TRANSLATE (R10); only a success carries a physical address. -/
inductive TranslateResult where
  | success (pa : Word)
  | fault (kind : FaultKind)
deriving DecidableEq, Repr

/-- The two fatal build errors (R131). -/
inductive BuildError where
  | configurationError
  | resourceExhaustion
deriving DecidableEq, Repr

/-- The result of BUILD (R10). -/
inductive BuildResult where
  | buildOk
  | error (e : BuildError)
deriving DecidableEq, Repr

/-- The response to one served request (R10, R66). -/
inductive Response where
  | build (r : BuildResult)
  | translate (r : TranslateResult)
deriving DecidableEq, Repr

/-- What reaches the block from outside: a request word from the requester (R4, R60) or the reset event (R160). -/
inductive Input where
  | request (q : RequestWord)
  | reset
deriving DecidableEq, Repr

/-- The only memory of the block: the page-table storage `PT`, an ordered sequence of entries whose position is their
index (R31, R40).  An index at or beyond the list's end has no value (assumption 3). -/
abbrev Memory := List Pte

/-- The form of the storage: no more entries than it has room for (R31: `PT_CAPACITY`). -/
def Memory.wf (capacity : Nat) (m : Memory) : Bool := decide (m.length ≤ capacity)

/-- The eight pieces of state of R20, then what the model adds around the block: its parameters, the stream of events
at its boundary, the responses it has given, and the counter of free values. -/
structure State where
  /-- `STATE`, R24. -/
  lifecycle : Lifecycle
  /-- `ASB`, R25. -/
  asb : BitVec 6
  /-- `PAGE_BYTES`, R26. -/
  pageBytes : BitVec 13
  /-- `SHIFT`, R27. -/
  shift : BitVec 4
  /-- `OFFSET_MASK`, R28. -/
  offsetMask : Word
  /-- `VPN_MASK`, R29. -/
  vpnMask : Word
  /-- `LENGTH`, R30. -/
  length : BitVec 21
  /-- `PT`, R31. -/
  pt : Memory
  /-- The parameters of R7, one field each; no step changes them. -/
  config : Config
  /-- The events not yet taken, the next one first: the requester's request stream (R4, R11) with the reset events
  that fall between requests (R160). -/
  input : List Input
  /-- The responses given, oldest first (R66: in the order the requests were issued). -/
  responses : List Response
  /-- The model's own: how many free values have been drawn (assumption 4). -/
  draws : Nat
deriving DecidableEq, Repr

/-- Why the machine stops with a fault. -/
inductive Fault where
  /-- Raised by TRANSLATE where the entry of a page number below `LENGTH` has no value.  No run reaches it: in `READY`
  every such entry was written by BUILD (R39).  SAFE: the model stops and claims nothing. -/
  | ptEntryHasNoValue (index : Nat)
deriving DecidableEq, Repr

/-- Why a request is refused (R140): no state change, no response.  SAFE, as R140 says: a run with a refused request
is taken as gone wrong. -/
inductive Refusal where
  /-- An instruction without a meaning; no arm of `exec` answers this. -/
  | notModelled (mnemonic : String)
  /-- Raised by `step`: the word does not decode (R65, R140 a). -/
  | undecodable (q : RequestWord)
  /-- Raised by BUILD when `STATE` is `READY` or `HALTED` (R81, R140 b). -/
  | buildNotAdmitted (st : Lifecycle)
  /-- Raised by TRANSLATE when `STATE` is `UNCONFIGURED` or `HALTED` (R101, R140 c). -/
  | translateNotAdmitted (st : Lifecycle)
deriving DecidableEq, Repr

/-- The block right after reset (R38, R161): `STATE` is `UNCONFIGURED`.  The zeros of the six registers are the
model's choice (assumption 2); no entry of `PT` has a value (assumption 3). -/
def State.reset : State where
  lifecycle := .unconfigured
  asb := 0
  pageBytes := 0
  shift := 0
  offsetMask := 0
  vpnMask := 0
  length := 0
  pt := []
  config := {}
  input := []
  responses := []
  draws := 0

end Sys2Proof.Machine
end

