-- ==== Sys2Proof/Machine/Flags.lean ====
section
/-! DEFINITION. The block has no flags and no condition codes (R23 of 10_state.md).  The status bits it does test are
those of a page-table entry: its fields (R32, R33), how they are packed, and the two bit tests in the grouping R166 of
70_reset_and_hazards.md fixes. -/

namespace Sys2Proof.Machine

/-- The entry with these fields: `frame_number` from bit `lsb` on ("i.e. `frame << 12`", R32), `accessible` in bit 1,
`valid` in bit 0.  With `lsb` 12 it is `{frame, 0b0000000000, acc, valid}` (R88; `pteOf_eq_fields` in Laws). -/
def pteOf (lsb : Nat) (frame : BitVec Config.frameBits) (accessible valid : Bool) : Pte :=
  (frame.setWidth 32 <<< lsb) ||| (BitVec.ofBool accessible ++ BitVec.ofBool valid).setWidth 32

/-- `frame_number`, the bits from `lsb` on: [31:12] with `FRAME_LSB`, whatever `SHIFT` is (R32, R107). -/
def pteFrame (lsb : Nat) (p : Pte) : BitVec Config.frameBits := p.extractLsb' lsb Config.frameBits

/-- Step 4 of TRANSLATE fires: `(pte AND 0x1) = 0` (R105, R166). -/
def pteNotValid (p : Pte) : Bool := (p &&& 0x00000001#32) == 0x00000000#32

/-- Step 5 of TRANSLATE fires: `(pte AND 0x3) = 0x1` (R106, R166). -/
def pteNotAccessible (p : Pte) : Bool := (p &&& 0x00000003#32) == 0x00000001#32

end Sys2Proof.Machine
end

