-- ==== Sys2Proof/Machine/Operands.lean ====
section
/-! DEFINITION. What is computed from the operands alone: the configuration check (R82), the derived constants (R83,
R84), the seeded entries (R88), and the split of a virtual address (R102).  There are no register operands (R21). -/

namespace Sys2Proof.Machine

/-- `log2(p)` for the thirteen legal page sizes: the `k` up to 12 with `2^k = p`, none if there is none (R8, R82). -/
def log2Page (p : Nat) : Option Nat := (List.range 13).find? fun k => 2 ^ k == p

/-- The configuration check in the order of R82: the shift amount of a legal pair, none for a `ConfigurationError`. -/
def checkConfig (asb pb : Nat) : Option Nat :=
  if asb < 1 ∨ 32 < asb then none
  else if pb < 1 ∨ 4096 < pb then none
  else
    match log2Page pb with
    | none => none
    | some shift => if asb < shift then none else some shift

/-- `offset_mask = (1 << shift) - 1` (R28, R83). -/
def offsetMaskOf (shift : Nat) : Word := word32 (2 ^ shift - 1)

/-- `vpn_mask = NOT offset_mask` over all 32 bits (R29, R83). -/
def vpnMaskOf (shift : Nat) : Word := ~~~ offsetMaskOf shift

/-- `length = 2^(asb - shift)`, on natural numbers (R84, R170). -/
def tableLength (asb shift : Nat) : Nat := 2 ^ (asb - shift)

/-- `half = floor(length / 2)` (R84). -/
def halfOf (length : Nat) : Nat := length / 2

/-- The entry BUILD writes at index `i` below `half` (R88): frame `2 * i` at bit `lsb`, valid, accessible
unless `i mod 4 = 0`. -/
def seedEntry (lsb i : Nat) : Pte := pteOf lsb (BitVec.ofNat Config.frameBits (2 * i)) (i % 4 != 0) true

/-- Step 1 of TRANSLATE, first half: `(va AND VPN_MASK) >> SHIFT`, in the order R102 and R165 make mandatory. -/
def vpnOf (vpnMask : Word) (shift : BitVec 4) (va : Word) : Word := (va &&& vpnMask) >>> shift.toNat

/-- Step 1 of TRANSLATE, second half: `va AND OFFSET_MASK` (R102). -/
def offsetOf (offsetMask va : Word) : Word := va &&& offsetMask

/-- Step 6 of TRANSLATE: `(zext_32(frame) << SHIFT) OR offset` (R107, R167). -/
def physicalAddress (shift : BitVec 4) (frame : BitVec Config.frameBits) (offset : Word) : Word :=
  (frame.setWidth 32 <<< shift.toNat) ||| offset

end Sys2Proof.Machine
end

