-- ==== Sys2Proof/Machine/Ops.lean ====
section
/-! DEFINITION. The operations the meanings share: the page-table storage (20_memory.md), the response (R66), what a
fault and a build error do to the state (R136, R137), and the events at the block's boundary (R4, R160). -/

namespace Sys2Proof.Machine

/-- The value of `STATE` as R24 numbers it. -/
def lifecycleCode : Lifecycle → BitVec 2
  | .unconfigured => 0
  | .ready => 1
  | .halted => 2

/-! ### The page-table storage -/

/-- `PTRead(i)` (R42), partial: none at `LENGTH` and above, and none where the entry has no value. -/
def ptRead (s : State) (i : Nat) : Option Pte := if i < s.length.toNat then s.pt[i]? else none

/-- `PTWrite(i, v)` on the storage (R43): entry `i` becomes `v`, nothing else changes. -/
def ptWrite (m : Memory) (i : Nat) (v : Pte) : Memory := m.set i v

/-- The table of `length` entries after the zero-initialisation (R87).  Laws/Build.lean proves it equal to the loop
of `ptWrite` that R91 writes. -/
def zeroTable (length : Nat) : Memory := List.replicate length 0

/-- Entries 0 to `half - 1` seeded with frames at bit `lsb`, the others as they were (R88).  Laws/Build.lean proves it
equal to the loop of `ptWrite` that R91 writes. -/
def seedTable (lsb half : Nat) (m : Memory) : Memory :=
  m.zipIdx.map fun e => if e.2 < half then seedEntry lsb e.2 else e.1

/-! ### Results -/

/-- The operation ends and `r` is the response to the requester (R9 `return r`, R66). -/
def respond (r : Response) (s : State) : State := { s with responses := s.responses ++ [r] }

/-- What a translation fault does to the state, the block's counterpart of taking an exception (R136): its response
is given and nothing else happens; there is nothing to return from (R138). -/
def returnFault (k : FaultKind) (s : State) : State := respond (.translate (.fault k)) s

/-- What a build error does to the state (R90, R137): its response is given and `STATE` becomes `HALTED`; only the
reset event leads out (R138). -/
def haltWith (e : BuildError) (s : State) : State := respond (.build (.error e)) { s with lifecycle := .halted }

/-! ### The commit of a successful BUILD -/

/-- R86 to R89: the six registers, the seeded table, then `STATE <- READY`. -/
def commitTable (asb pb shift : Nat) (s : State) : State :=
  let length := tableLength asb shift
  { s with
    lifecycle := .ready
    asb := BitVec.ofNat 6 asb
    pageBytes := BitVec.ofNat 13 pb
    shift := BitVec.ofNat 4 shift
    offsetMask := offsetMaskOf shift
    vpnMask := vpnMaskOf shift
    length := BitVec.ofNat 21 length
    pt := seedTable s.config.frameLsb.val (halfOf length) (zeroTable length) }

/-! ### The events at the block's boundary -/

/-- The next event and the state once it is taken; none where the block is idle. -/
def takeInput (s : State) : Option (Input × State) :=
  match s.input with
  | [] => none
  | e :: rest => some (e, { s with input := rest })

/-- The event `e` placed where the next step takes it. -/
def offerInput (e : Input) (s : State) : State := { s with input := e :: s.input }

/-- Waiting for the next request has no architectural effect (R142). -/
def idle (s : State) : State := s

/-- The reset event (R160): `STATE <- UNCONFIGURED`, every other piece of the block's state unspecified: each register
takes a free value and no entry of `PT` has a value.  The parameters, the events still to come and the responses
already given are not the block's state and stay. -/
def resetEvent (s : State) : State :=
  { s with
    lifecycle := .unconfigured
    asb := Config.unspecifiedRegister 6 s.draws
    pageBytes := Config.unspecifiedRegister 13 (s.draws + 1)
    shift := Config.unspecifiedRegister 4 (s.draws + 2)
    offsetMask := Config.unspecifiedRegister 32 (s.draws + 3)
    vpnMask := Config.unspecifiedRegister 32 (s.draws + 4)
    length := Config.unspecifiedRegister 21 (s.draws + 5)
    pt := []
    draws := s.draws + 6 }

/-- The request word of `w` (see `tableWord`) offered to the block; a `w` that is no word of `REQ_BITS`
bits offers nothing. -/
def offerTableWord (nbits w : Nat) (s : State) : State :=
  match tableWord s.config.requestBits.val nbits w with
  | some q => offerInput (.request q) s
  | none => s

end Sys2Proof.Machine
end

