-- ==== Sys2Proof/Machine/Build.lean ====
section
/-! DEFINITION. The meaning of BUILD (40_build.md). -/

namespace Sys2Proof.Machine

/-- BUILD once admitted: the checks in the order of R91, then the commit or the halt. -/
def buildServed (asb pb : Nat) (s : State) : State :=
  match checkConfig asb pb with
  | none => haltWith .configurationError s
  | some shift =>
    if s.config.ptCapacity.val < tableLength asb shift then haltWith .resourceExhaustion s
    else respond (.build .buildOk) (commitTable asb pb shift s)

/-- BUILD (R91): served in `UNCONFIGURED`, refused in the other states (R81). -/
def execBuild (asb pb : Nat) (s : State) : Host.Outcome State Fault Refusal :=
  match s.lifecycle with
  | .unconfigured => .next (buildServed asb pb s)
  | .ready => .refused (.buildNotAdmitted .ready)
  | .halted => .refused (.buildNotAdmitted .halted)

end Sys2Proof.Machine
end

