-- ==== Sys2Proof/Machine/Translate.lean ====
section
/-! DEFINITION. The meaning of TRANSLATE (41_translate.md), and the pure function of R108. -/

namespace Sys2Proof.Machine

/-- Steps 4 to 6 on the fetched entry (R105 to R107). -/
def classifyEntry (lsb : Nat) (shift : BitVec 4) (offset : Word) (pte : Pte) : TranslateResult :=
  if pteNotValid pte then .fault .notValid
  else if pteNotAccessible pte then .fault .notAccessible
  else .success (physicalAddress shift (pteFrame lsb pte) offset)

/-- The state after the result `r` of a TRANSLATE: the response, nothing else (R109, R136). -/
def returnTranslation (r : TranslateResult) (s : State) : State :=
  match r with
  | .success pa => respond (.translate (.success pa)) s
  | .fault k => returnFault k s

/-- The six steps of R108, "purely as a function of (table, constants, address)"; none where the entry of a page number
below `LENGTH` has no value. -/
def translationOf (va : Word) (s : State) : Option TranslateResult :=
  let vpn := vpnOf s.vpnMask s.shift va
  let offset := offsetOf s.offsetMask va
  if s.length.toNat ≤ vpn.toNat then some (.fault .outOfRange)
  else (ptRead s vpn.toNat).map (classifyEntry s.config.frameLsb.val s.shift offset)

/-- TRANSLATE once admitted: the result of the six steps is returned. -/
def translateServed (va : Word) (s : State) : Host.Outcome State Fault Refusal :=
  match translationOf va s with
  | some r => .next (returnTranslation r s)
  | none => .fault (.ptEntryHasNoValue (vpnOf s.vpnMask s.shift va).toNat)

/-- TRANSLATE (R108): served in `READY`, refused in the other states (R101). -/
def execTranslate (va : Word) (s : State) : Host.Outcome State Fault Refusal :=
  match s.lifecycle with
  | .ready => translateServed va s
  | .unconfigured => .refused (.translateNotAdmitted .unconfigured)
  | .halted => .refused (.translateNotAdmitted .halted)

/-- `translate(T, length, shift, va)` of R108, the pure function over an arbitrary table, on natural numbers; none
where the table has no entry at a page number below `length`. -/
def translatePure (t : Memory) (length shift : Nat) (va : Word) : Option TranslateResult :=
  let vpn := va.toNat / 2 ^ shift
  let offset := va.toNat % 2 ^ shift
  if length ≤ vpn then some (.fault .outOfRange)
  else
    match t[vpn]? with
    | none => none
    | some pte =>
      if pte.getLsbD 0 = false then some (.fault .notValid)
      else if pte.getLsbD 1 = false then some (.fault .notAccessible)
      else some (.success (word32 ((pte.extractLsb' 12 20).toNat * 2 ^ shift + offset)))

end Sys2Proof.Machine
end

