-- ==== Sys2Proof/Machine/Dispatch.lean ====
section
/-! DEFINITION. One arm per operation. -/

namespace Sys2Proof.Machine

def exec (i : Instr) (s : State) : Host.Outcome State Fault Refusal :=
  match i with
  | .build asb pb => Sys2Proof.Machine.execBuild asb pb s
  | .translate va => Sys2Proof.Machine.execTranslate va s

end Sys2Proof.Machine
end

