-- ==== Sys2Proof/Machine/Step.lean ====
section
/-! DEFINITION. One step: the block takes the next event at its boundary and serves it to completion (R4 of
00_scope.md). -/

namespace Sys2Proof.Machine

/-- Idle with no event (R142); a reset event between requests (R160); a request decoded (R64) and served, or refused
where it does not decode (R140). -/
def step (s : State) : Host.Outcome State Fault Refusal :=
  match takeInput s with
  | none => .next (idle s)
  | some (.reset, t) => .next (resetEvent t)
  | some (.request q, t) =>
    match decode q with
    | some i => exec i t
    | none => .refused (.undecodable q)

/-- `s` with the request word of `w` as the next event, before those already waiting. -/
def State.withFetchWord (s : State) (nbits w : Nat) : State := offerTableWord nbits w s

end Sys2Proof.Machine
end

