-- ==== Sys2Proof/Machine/Response.lean ====
section
/-! DEFINITION. Response words (R66 to R68 of 30_encoding.md): the serialisation of a response, and how the requester
reads it back. -/

namespace Sys2Proof.Machine

/-- The status code of a response (R67). -/
def statusOf : Response → BitVec 3
  | .build .buildOk => 0
  | .translate (.success _) => 0
  | .translate (.fault .notValid) => 1
  | .translate (.fault .notAccessible) => 2
  | .translate (.fault .outOfRange) => 3
  | .build (.error .configurationError) => 4
  | .build (.error .resourceExhaustion) => 5

/-- The `pa` bits of a response (R66): the address of a success, otherwise the unspecified bits `free` (R68). -/
def paBitsOf (free : Word) : Response → Word
  | .translate (.success pa) => pa
  | .translate (.fault _) => free
  | .build _ => free

/-- The response word `P[34:0]` (R66), `status` in [34:32] and `pa` in [31:0]. -/
def responseWord (free : Word) (r : Response) : ResponseWord := statusOf r ++ paBitsOf free r

/-- The response words the block has given, words of `RSP_BITS` bits, oldest first; each draws its own unspecified `pa`
bits (R68, U1). -/
def responseWords (s : State) : List (BitVec s.config.responseBits.val) :=
  s.responses.zipIdx.map fun r => (responseWord (Config.unspecifiedPa r.2) r.1).setWidth s.config.responseBits.val

/-- What the requester reads from the response word to its request `i` (R67); none for a code the operation never
produces.  The `pa` bits are read under `status = 0` of a TRANSLATE only (R68). -/
def readResponse (i : Instr) (p : ResponseWord) : Option Response :=
  let status := p.extractLsb' 32 3
  match i with
  | .build _ _ =>
    if status = 0 then some (.build .buildOk)
    else if status = 4 then some (.build (.error .configurationError))
    else if status = 5 then some (.build (.error .resourceExhaustion))
    else none
  | .translate _ =>
    if status = 0 then some (.translate (.success (p.extractLsb' 0 32)))
    else if status = 1 then some (.translate (.fault .notValid))
    else if status = 2 then some (.translate (.fault .notAccessible))
    else if status = 3 then some (.translate (.fault .outOfRange))
    else none

end Sys2Proof.Machine
end

