-- ==== Sys2Proof/Machine/Script.lean ====
section
/-! DEFINITION. Request scripts, the block's "assembly" (R71 of 30_encoding.md): one request per line, `BUILD <asb>, <pb>`
or `TRANSLATE <va>`, numbers decimal or hexadecimal with the prefix 0x, `;` to the end of the line a comment, blank
lines ignored.  There are no pseudo-instructions (R72). -/

namespace Sys2Proof.Machine

/-- The value of one digit, up to base 16. -/
def digitValue (c : Char) : Option Nat :=
  let n := c.toNat
  if 48 ≤ n ∧ n ≤ 57 then some (n - 48)
  else if 65 ≤ n ∧ n ≤ 70 then some (n - 55)
  else if 97 ≤ n ∧ n ≤ 102 then some (n - 87)
  else none

/-- The number the digits `ds` write in base `base` after the digits worth `acc`. -/
def digitsValue (base : Nat) : List Char → Nat → Option Nat
  | [], acc => some acc
  | c :: ds, acc =>
    match digitValue c with
    | some d => if d < base then digitsValue base ds (acc * base + d) else none
    | none => none

/-- A number: hexadecimal with the prefix 0x, else decimal; at least one digit. -/
def readNumber : List Char → Option Nat
  | [] => none
  | ['0', 'x'] => none
  | '0' :: 'x' :: ds => digitsValue 16 ds 0
  | ds => digitsValue 10 ds 0

/-- The token being read, if it has begun. -/
def endToken (cur : List Char) : List (List Char) := if cur.isEmpty then [] else [cur]

/-- The tokens of a line; `cur` is the token being read. Blanks separate, a comma is a token, `;` ends the line. -/
def lineTokens : List Char → List Char → List (List Char)
  | [], cur => endToken cur
  | c :: cs, cur =>
    if c = ';' then endToken cur
    else if c = ' ' ∨ c = '\t' ∨ c = '\r' then endToken cur ++ lineTokens cs []
    else if c = ',' then endToken cur ++ [','] :: lineTokens cs []
    else lineTokens cs (cur ++ [c])

/-- The request of a line: `some none` for a blank line, `none` for a line that is no request whose operands fit
their fields (R62). -/
def readLine (line : List Char) : Option (Option Instr) :=
  let encodable (i : Instr) : Option (Option Instr) := if i.wf then some (some i) else none
  match lineTokens line [] with
  | [] => some none
  | [['B', 'U', 'I', 'L', 'D'], a, [','], p] =>
    match readNumber a, readNumber p with
    | some asb, some pb => encodable (.build asb pb)
    | _, _ => none
  | [['T', 'R', 'A', 'N', 'S', 'L', 'A', 'T', 'E'], v] =>
    match readNumber v with
    | some va => if va < 2 ^ 32 then encodable (.translate (word32 va)) else none
    | none => none
  | _ => none

/-- The lines of a text; `cur` is the line being read. -/
def textLines : List Char → List Char → List (List Char)
  | [], cur => [cur]
  | c :: cs, cur => if c = '\n' then cur :: textLines cs [] else textLines cs (cur ++ [c])

/-- The requests of the lines, in order; none if some line is no request. -/
def readLines : List (List Char) → Option (List Instr)
  | [] => some []
  | l :: ls =>
    match readLine l, readLines ls with
    | some none, some is => some is
    | some (some i), some is => some (i :: is)
    | _, _ => none

/-- The requests of a script. -/
def readScript (text : List Char) : Option (List Instr) := readLines (textLines text [])

/-- The requests `is` offered to the block, in order, after the events already waiting. -/
def offerRequests (is : List Instr) (s : State) : State :=
  { s with input := s.input ++ is.map fun i => .request (encode i) }

end Sys2Proof.Machine
end

