-- ==== Sys2Proof/Safety.lean ====
section
/-! DEFINITION. The words claims are stated in: what holds in `READY` (R39), the invariant, runs between resets (R163),
and what the requester can see (R38). -/

namespace Sys2Proof.Machine

/-- What the translator relies on, for an arbitrary table (R108, D23): the constants belong to one shift amount from 0
to 12, and every index below `LENGTH` has an entry. -/
structure Coherent (s : State) : Prop where
  shift_le : s.shift.toNat ≤ 12
  offsetMask_eq : s.offsetMask.toNat = 2 ^ s.shift.toNat - 1
  vpnMask_eq : s.vpnMask.toNat = 2 ^ 32 - 2 ^ s.shift.toNat
  entries : s.length.toNat ≤ s.pt.length

/-- R39 of 10_state.md, fact for fact. -/
structure ReadyFacts (s : State) : Prop where
  asb_range : 1 ≤ s.asb.toNat ∧ s.asb.toNat ≤ 32
  pageBytes_eq : s.pageBytes.toNat = 2 ^ s.shift.toNat
  shift_le : s.shift.toNat ≤ 12
  shift_le_asb : s.shift.toNat ≤ s.asb.toNat
  offsetMask_eq : s.offsetMask.toNat = 2 ^ s.shift.toNat - 1
  vpnMask_eq : s.vpnMask.toNat = 2 ^ 32 - 2 ^ s.shift.toNat
  masks_disjoint : s.offsetMask &&& s.vpnMask = 0
  masks_cover : s.offsetMask ||| s.vpnMask = 0xFFFFFFFF
  length_eq : s.length.toNat = 2 ^ (s.asb.toNat - s.shift.toNat)
  length_range : 1 ≤ s.length.toNat ∧ s.length.toNat ≤ s.config.ptCapacity.val
  pt_length : s.pt.length = s.length.toNat
  pt_seeded : ∀ i, i < s.length.toNat / 2 → s.pt[i]? = some (word32 (8192 * i + if i % 4 = 0 then 1 else 3))
  pt_unmapped : ∀ i, s.length.toNat / 2 ≤ i → i < s.length.toNat → s.pt[i]? = some 0

/-- The invariant of the machine: the lower bound of `PT_CAPACITY` (R7), the form of the storage (R31), and R39. -/
structure Inv (s : State) : Prop where
  capacity_pos : 1 ≤ s.config.ptCapacity.val
  pt_wf : Memory.wf s.config.ptCapacity.val s.pt = true
  ready : s.lifecycle = .ready → ReadyFacts s

/-- `k` steps from `s` end in `t`: none of them was refused and none faulted. -/
def RunsTo : Nat → State → State → Prop
  | 0, s, t => s = t
  | k + 1, s, t => ∃ u, step s = .next u ∧ RunsTo k u t

/-- No reset event among the next `k` events: these steps belong to one run (R163). -/
def WithinOneRun (k : Nat) (s : State) : Prop := Input.reset ∉ s.input.take k

/-- A good run (R163): none of its requests was refused and `STATE` is not `HALTED` at its end. -/
def GoodRun (k : Nat) (s : State) : Prop := WithinOneRun k s ∧ ∃ t, RunsTo k s t ∧ t.lifecycle ≠ .halted

/-- The eight pieces of the block's state (R20) are the same in `s` and `t`. -/
structure SameBlock (s t : State) : Prop where
  lifecycle : s.lifecycle = t.lifecycle
  asb : s.asb = t.asb
  pageBytes : s.pageBytes = t.pageBytes
  shift : s.shift = t.shift
  offsetMask : s.offsetMask = t.offsetMask
  vpnMask : s.vpnMask = t.vpnMask
  length : s.length = t.length
  pt : s.pt = t.pt

/-- The requester cannot tell `s` from `t` (R38): the same lifecycle, parameters, events and responses, and in
`READY` the same registers and table; outside `READY` registers, table and the counter of free values may differ. -/
structure Indistinguishable (s t : State) : Prop where
  lifecycle : s.lifecycle = t.lifecycle
  config : s.config = t.config
  input : s.input = t.input
  responses : s.responses = t.responses
  block : s.lifecycle = .ready → SameBlock s t

/-- The two loops of R91 as written, over a storage of `length` entries whose contents are `m`. -/
def pseudocodeTable (length : Nat) (m : Memory) : Memory :=
  (List.range (length / 2)).foldl (fun m i => ptWrite m i (word32 (8192 * i + if i % 4 = 0 then 1 else 3)))
    ((List.range length).foldl (fun m i => ptWrite m i 0) m)

end Sys2Proof.Machine
end

