-- ==== Sys2Proof/Certificates/Slice0/Obligations.lean ====
section
/-! DEFINITION. What is claimed of the model: statements for the provers, none proved here. -/

open Sys2Proof Sys2Proof.Machine

/-! ### Encodings -/

/-- R64: the decoder is total and is the function the rule writes; a decoded word is encoded back to itself, and an
operation whose operands fit their fields is decoded back to itself. -/
def Obligations.DecodeAndEncodeAgree : Prop :=
  (∀ q : BitVec 34, decode q =
    if q.extractLsb' 32 2 = 0b00#2 ∧ q.extractLsb' 19 13 = 0#13 then
      some (.build (q.extractLsb' 0 6).toNat (q.extractLsb' 6 13).toNat)
    else if q.extractLsb' 32 2 = 0b01#2 then some (.translate (q.extractLsb' 0 32))
    else none) ∧
  (∀ q i, decode q = some i → i.wf = true ∧ encode i = q) ∧
  (∀ i, i.wf = true → decode (encode i) = some i)

/-- R63: the request word as a number, with the rule's four examples. -/
def Obligations.EncodedWordAsNumber : Prop :=
  (∀ asb pb, asb ≤ 63 → pb ≤ 8191 → (encode (.build asb pb)).toNat = pb * 64 + asb) ∧
  (∀ va, (encode (.translate va)).toNat = 2 ^ 32 + va.toNat) ∧
  encode (.build 32 4096) = 0x000040020#34 ∧ encode (.build 16 256) = 0x000004010#34 ∧
  encode (.translate 0x00002000) = 0x100002000#34 ∧ encode (.translate 0xFFFFFFFF) = 0x1FFFFFFFF#34

/-- R61: each row's match and mask say which words the decoder reads as that operation; the rows never both match;
`op` 2 and 3 select nothing. -/
def Obligations.OpcodeMapMatchesAndMasks : Prop :=
  ∀ q : BitVec 34,
    (q &&& 0x3FFF80000#34 = 0x000000000#34 ↔ ∃ asb pb, decode q = some (.build asb pb)) ∧
    (q &&& 0x300000000#34 = 0x100000000#34 ↔ ∃ va, decode q = some (.translate va)) ∧
    ¬(q &&& 0x3FFF80000#34 = 0x000000000#34 ∧ q &&& 0x300000000#34 = 0x100000000#34) ∧
    (q.extractLsb' 32 2 = 0b10#2 ∨ q.extractLsb' 32 2 = 0b11#2 → decode q = none)

/-- R62, R65: the decoded operands are exactly the pairs that fit the fields, illegal values among them, and every
32-bit address; nothing else can be encoded. -/
def Obligations.EncodableOperandsAreTheFieldValues : Prop :=
  (∀ asb pb, (∃ q, decode q = some (.build asb pb)) ↔ asb ≤ 63 ∧ pb ≤ 8191) ∧
  (∀ va : BitVec 32, ∃ q, decode q = some (.translate va))

/-- R65, R140 (a): the words that do not decode are those with `op` 2 or 3, or `op` 0 and a bit of `rsv` set; as the
next request they are refused in every state. -/
def Obligations.ReservedWordsAreRefusedInEveryState : Prop :=
  ∀ (s : State) (q : BitVec 34) (rest : List Input), s.input = .request q :: rest →
    (q.extractLsb' 32 2 = 0b10#2 ∨ q.extractLsb' 32 2 = 0b11#2 ∨
      (q.extractLsb' 32 2 = 0b00#2 ∧ q.extractLsb' 19 13 ≠ 0#13)) →
    step s = .refused (.undecodable q)

/-- Sanity: words of 95_test_vectors.md section 2.3, as that table reads them. -/
def Obligations.WrittenOutWordsDecode : Prop :=
  decode 0x000040020#34 = some (.build 32 4096) ∧ decode 0x100002000#34 = some (.translate 0x00002000) ∧
  decode 0x1FFFFFFFF#34 = some (.translate 0xFFFFFFFF) ∧ decode 0x00007FFFF#34 = some (.build 63 8191) ∧
  decode 0x000080000#34 = none ∧ decode 0x300002000#34 = none

/-- R67: the status code of every response, and the address where `status = 0` answers a TRANSLATE; codes 6 and 7 are
never produced.  `free` stands for the unspecified `pa` bits. -/
def Obligations.ResponseStatusCodes : Prop :=
  ∀ free : BitVec 32,
    (responseWord free (.build .buildOk)).extractLsb' 32 3 = 0 ∧
    (∀ pa, (responseWord free (.translate (.success pa))).extractLsb' 32 3 = 0 ∧
      (responseWord free (.translate (.success pa))).extractLsb' 0 32 = pa) ∧
    (responseWord free (.translate (.fault .notValid))).extractLsb' 32 3 = 1 ∧
    (responseWord free (.translate (.fault .notAccessible))).extractLsb' 32 3 = 2 ∧
    (responseWord free (.translate (.fault .outOfRange))).extractLsb' 32 3 = 3 ∧
    (responseWord free (.build (.error .configurationError))).extractLsb' 32 3 = 4 ∧
    (responseWord free (.build (.error .resourceExhaustion))).extractLsb' 32 3 = 5 ∧
    ∀ r, (responseWord free r).extractLsb' 32 3 ≠ 6 ∧ (responseWord free r).extractLsb' 32 3 ≠ 7

/-- R10, R66, R68: the response word serialises the result: the requester reads the same response back, whatever the
unspecified `pa` bits are. -/
def Obligations.ResponseWordReadsBack : Prop :=
  (∀ (free : BitVec 32) (asb pb : Nat) (r : BuildResult),
    readResponse (.build asb pb) (responseWord free (.build r)) = some (.build r)) ∧
  (∀ (free va : BitVec 32) (r : TranslateResult),
    readResponse (.translate va) (responseWord free (.translate r)) = some (.translate r))

/-! ### BUILD -/

/-- R86: when both checks pass BUILD answers a next state, with the six registers as computed from the operands; the
derived constants are those of R83 and R84; `STATE` is `READY` and the result is `BuildOk` (R89). -/
def Obligations.BuildCommitsRegisters : Prop :=
  ∀ (s : State) (asb k : Nat), s.lifecycle = .unconfigured → 1 ≤ asb → asb ≤ 32 → k ≤ 12 → k ≤ asb →
    2 ^ (asb - k) ≤ s.config.ptCapacity.val →
    ∃ t, exec (.build asb (2 ^ k)) s = .next t ∧ t.lifecycle = .ready ∧
      t.asb.toNat = asb ∧ t.pageBytes.toNat = 2 ^ k ∧ t.shift.toNat = k ∧
      t.offsetMask.toNat = 2 ^ k - 1 ∧ t.vpnMask = ~~~ t.offsetMask ∧ t.vpnMask.toNat = 2 ^ 32 - 2 ^ k ∧
      t.length.toNat = 2 ^ (asb - k) ∧ t.responses = s.responses ++ [.build .buildOk]

/-- The frame of BUILD: whatever its result, what the model adds around the block is unchanged but for the one response
(assumptions 1, 4 and 7); where it ends in an error no register and no entry of the table is written (R91; that the
unspecified values stay as they were is the model's reading, assumption 9). -/
def Obligations.BuildFrame : Prop :=
  ∀ (s t : State) (asb pb : Nat), exec (.build asb pb) s = .next t →
    s.lifecycle = .unconfigured ∧
    t.config = s.config ∧ t.input = s.input ∧ t.draws = s.draws ∧
    (∃ r, t.responses = s.responses ++ [.build r]) ∧
    (t.lifecycle ≠ .ready → t.lifecycle = .halted ∧ t.asb = s.asb ∧ t.pageBytes = s.pageBytes ∧ t.shift = s.shift ∧
      t.offsetMask = s.offsetMask ∧ t.vpnMask = s.vpnMask ∧ t.length = s.length ∧ t.pt = s.pt)

/-- R88: the seeding rule, on the table a successful BUILD leaves: its first half holds `8192 * i + 1` or
`8192 * i + 3`, the rest zero, and the first nine words are the rule's. -/
def Obligations.BuildSeedsTable : Prop :=
  ∀ (s : State) (asb k : Nat), s.lifecycle = .unconfigured → 1 ≤ asb → asb ≤ 32 → k ≤ 12 → k ≤ asb →
    2 ^ (asb - k) ≤ s.config.ptCapacity.val →
    ∃ t, exec (.build asb (2 ^ k)) s = .next t ∧
      (∀ i, i < 2 ^ (asb - k) / 2 →
        ∃ w, t.pt[i]? = some w ∧ w.toNat = if i % 4 = 0 then 8192 * i + 1 else 8192 * i + 3) ∧
      (∀ i, 2 ^ (asb - k) / 2 ≤ i → i < 2 ^ (asb - k) → t.pt[i]? = some 0x00000000#32) ∧
      (8 < 2 ^ (asb - k) / 2 → t.pt.take 9 = [0x00000001#32, 0x00002003#32, 0x00004003#32, 0x00006003#32,
        0x00008001#32, 0x0000A003#32, 0x0000C003#32, 0x0000E003#32, 0x00010001#32])

/-- R92 (a) to (d): the properties of a freshly built table, field by field. -/
def Obligations.BuiltTableProperties : Prop :=
  ∀ (s t : State) (asb pb : Nat), exec (.build asb pb) s = .next t →
    t.responses = s.responses ++ [.build .buildOk] →
    ∃ k, 2 ^ k = pb ∧ t.pt.length = 2 ^ (asb - k) ∧
      (∀ i, 2 ^ (asb - k) / 2 ≤ i → i < 2 ^ (asb - k) → t.pt[i]? = some 0) ∧
      (∀ i, i < 2 ^ (asb - k) / 2 → ∃ w, t.pt[i]? = some w ∧ (w.extractLsb' 12 20).toNat = i * 2 ∧
        w.getLsbD 1 = decide (i % 4 ≠ 0) ∧ w.getLsbD 0 = true) ∧
      (∀ w ∈ t.pt, w.extractLsb' 2 10 = 0)

/-- R91, R43: the table of a successful BUILD is the one the two loops of PTWrite in R91 write, whatever the storage held
before. -/
def Obligations.BuildTableIsWhatTheLoopsWrite : Prop :=
  ∀ (s : State) (asb k : Nat) (m : Memory), s.lifecycle = .unconfigured → 1 ≤ asb → asb ≤ 32 → k ≤ 12 → k ≤ asb →
    2 ^ (asb - k) ≤ s.config.ptCapacity.val → m.length = 2 ^ (asb - k) →
    ∃ t, exec (.build asb (2 ^ k)) s = .next t ∧ t.pt = pseudocodeTable (2 ^ (asb - k)) m

/-- R82, R90, R91: each of the four conditions makes BUILD answer `ConfigurationError` and halt.  That nothing else changes,
the unspecified registers and the table among it, is the model's reading (assumption 9). -/
def Obligations.BuildConfigurationErrors : Prop :=
  ∀ (s : State) (asb pb : Nat), s.lifecycle = .unconfigured →
    (asb < 1 ∨ 32 < asb ∨ pb < 1 ∨ 4096 < pb ∨ (¬∃ k, 2 ^ k = pb) ∨ (∃ k, 2 ^ k = pb ∧ asb < k)) →
    exec (.build asb pb) s = .next { s with
      lifecycle := .halted, responses := s.responses ++ [.build (.error .configurationError)] }

/-- R85, R90, R91: a legal pair whose length exceeds `PT_CAPACITY` is `ResourceExhaustion` and halts.  That nothing else
changes, the unspecified registers and the table among it, is the model's reading (assumption 9).  Where the length does not exceed it, every seeded frame number fits the 20-bit field. -/
def Obligations.BuildResourceExhaustion : Prop :=
  ∀ (s : State) (asb k : Nat), s.lifecycle = .unconfigured → 1 ≤ asb → asb ≤ 32 → k ≤ 12 → k ≤ asb →
    (s.config.ptCapacity.val < 2 ^ (asb - k) →
      exec (.build asb (2 ^ k)) s = .next { s with
        lifecycle := .halted, responses := s.responses ++ [.build (.error .resourceExhaustion)] }) ∧
    (2 ^ (asb - k) ≤ s.config.ptCapacity.val →
      ∀ i, i < 2 ^ (asb - k) / 2 → 2 * i ≤ 2 ^ (asb - k) - 2 ∧ 2 * i < 2 ^ 20)

/-- R131, R135: a served BUILD has exactly one result, and which one is decided by the exact conditions, the
configuration check first. -/
def Obligations.BuildHasExactlyOneResult : Prop :=
  ∀ (s : State) (asb pb : Nat), s.lifecycle = .unconfigured →
    ∃ t r, exec (.build asb pb) s = .next t ∧ t.responses = s.responses ++ [.build r] ∧
      (r ≠ .error .configurationError ↔
        (1 ≤ asb ∧ asb ≤ 32) ∧ (1 ≤ pb ∧ pb ≤ 4096) ∧ ∃ k, 2 ^ k = pb ∧ k ≤ asb) ∧
      (r = .error .resourceExhaustion ↔
        (1 ≤ asb ∧ asb ≤ 32) ∧ (1 ≤ pb ∧ pb ≤ 4096) ∧
          ∃ k, 2 ^ k = pb ∧ k ≤ asb ∧ s.config.ptCapacity.val < 2 ^ (asb - k)) ∧
      (t.lifecycle = .ready ↔ r = .buildOk) ∧ (t.lifecycle = .halted ↔ r ≠ .buildOk)

/-- R81: BUILD is served in `UNCONFIGURED` and refused in `READY` and `HALTED`, whatever its operands. -/
def Obligations.BuildServedOnlyWhenUnconfigured : Prop :=
  ∀ (s : State) (asb pb : Nat),
    (s.lifecycle = .unconfigured → ∃ t, exec (.build asb pb) s = .next t) ∧
    (s.lifecycle ≠ .unconfigured → exec (.build asb pb) s = .refused (.buildNotAdmitted s.lifecycle))

/-- R170, R94: the length is no 32-bit quantity: `BUILD 32, 1` is `ResourceExhaustion` for every `PT_CAPACITY`.
That the rest of the state is as it was is the model's reading (assumption 9). -/
def Obligations.LengthNeverWraps : Prop :=
  ∀ s : State, s.lifecycle = .unconfigured →
    exec (.build 32 1) s = .next { s with
      lifecycle := .halted, responses := s.responses ++ [.build (.error .resourceExhaustion)] }

/-- R95: the worked example, from the request word: `BUILD 32, 4096` with the default `PT_CAPACITY`. -/
def Obligations.BuildWorkedExample : Prop :=
  ∀ (s : State) (rest : List Input), s.lifecycle = .unconfigured → s.config.ptCapacity.val = 2 ^ 20 →
    s.input = .request 0x000040020#34 :: rest →
    ∃ t, step s = .next t ∧ t.lifecycle = .ready ∧ t.shift = 12 ∧ t.offsetMask = 0x00000FFF#32 ∧
      t.vpnMask = 0xFFFFF000#32 ∧ t.length.toNat = 1048576 ∧ t.pt.length = 1048576 ∧
      t.pt[0]? = some 0x00000001#32 ∧ t.pt[1]? = some 0x00002003#32 ∧ t.pt[2]? = some 0x00004003#32 ∧
      t.pt[524287]? = some 0xFFFFE003#32 ∧
      (∀ i, 524288 ≤ i → i ≤ 1048575 → t.pt[i]? = some 0x00000000#32) ∧
      t.responses = s.responses ++ [.build .buildOk] ∧ statusOf (.build .buildOk) = 0

/-! ### TRANSLATE -/

/-- R108: outside `READY` TRANSLATE is refused; in `READY` it is the pure function of the rule over the state's table,
length and shift, for an arbitrary table whose constants belong together; it adds the result as a response and changes
nothing else. -/
def Obligations.TranslateIsThePureFunction : Prop :=
  ∀ (s : State) (va : BitVec 32),
    (s.lifecycle ≠ .ready → exec (.translate va) s = .refused (.translateNotAdmitted s.lifecycle)) ∧
    (s.lifecycle = .ready → Coherent s →
      ∃ r, translatePure s.pt s.length.toNat s.shift.toNat va = some r ∧
        exec (.translate va) s = .next { s with responses := s.responses ++ [.translate r] })

/-- R111: the classification table: the four rows, each with its result, over an arbitrary table whose constants belong
together; each answers a next state that differs in the added response only. -/
def Obligations.TranslateClassification : Prop :=
  ∀ (s : State) (va : BitVec 32), s.lifecycle = .ready → Coherent s →
    (s.length.toNat ≤ va.toNat / 2 ^ s.shift.toNat →
      exec (.translate va) s = .next { s with responses := s.responses ++ [.translate (.fault .outOfRange)] }) ∧
    (∀ pte, va.toNat / 2 ^ s.shift.toNat < s.length.toNat → s.pt[va.toNat / 2 ^ s.shift.toNat]? = some pte →
      (pte.getLsbD 0 = false →
        exec (.translate va) s = .next { s with responses := s.responses ++ [.translate (.fault .notValid)] }) ∧
      (pte.getLsbD 0 = true → pte.getLsbD 1 = false →
        exec (.translate va) s = .next { s with responses := s.responses ++ [.translate (.fault .notAccessible)] }) ∧
      (pte.getLsbD 0 = true → pte.getLsbD 1 = true →
        ∃ pa, exec (.translate va) s = .next { s with responses := s.responses ++ [.translate (.success pa)] })) ∧
    ∃ r, exec (.translate va) s = .next { s with responses := s.responses ++ [.translate r] } ∧
      ∀ r', exec (.translate va) s = .next { s with responses := s.responses ++ [.translate r'] } → r' = r

/-- R101: TRANSLATE is served in `READY` and refused in `UNCONFIGURED` and `HALTED`, whatever its operand. -/
def Obligations.TranslateServedOnlyWhenReady : Prop :=
  ∀ (s : State) (va : BitVec 32),
    (s.lifecycle = .ready → Coherent s → ∃ t, exec (.translate va) s = .next t) ∧
    (s.lifecycle ≠ .ready → exec (.translate va) s = .refused (.translateNotAdmitted s.lifecycle))

/-- R115: the shape of a successful result, over an arbitrary table whose constants belong together. -/
def Obligations.SuccessfulAddressShape : Prop :=
  ∀ (s : State) (va : BitVec 32) (pte : BitVec 32), s.lifecycle = .ready → Coherent s →
    va.toNat / 2 ^ s.shift.toNat < s.length.toNat → s.pt[va.toNat / 2 ^ s.shift.toNat]? = some pte →
    pte.getLsbD 0 = true → pte.getLsbD 1 = true →
    ∃ pa, exec (.translate va) s = .next { s with responses := s.responses ++ [.translate (.success pa)] } ∧
      pa &&& s.offsetMask = va &&& s.offsetMask ∧
      pa >>> s.shift.toNat = (pte.extractLsb' 12 20).setWidth 32 ∧
      pa.toNat = (pte.extractLsb' 12 20).toNat * 2 ^ s.shift.toNat + va.toNat % 2 ^ s.shift.toNat ∧
      pa.toNat < 2 ^ (20 + s.shift.toNat)

/-- R113: the page number TRANSLATE computes, mask then shift in the order of R102, is the plain quotient; its offset is
the remainder; the two give the address back. -/
def Obligations.MaskThenShiftIsTheQuotient : Prop :=
  ∀ (s : State) (va : BitVec 32), Coherent s →
    vpnOf s.vpnMask s.shift va = (va &&& s.vpnMask) >>> s.shift.toNat ∧
    vpnOf s.vpnMask s.shift va = va >>> s.shift.toNat ∧
    (vpnOf s.vpnMask s.shift va).toNat = va.toNat / 2 ^ s.shift.toNat ∧
    (offsetOf s.offsetMask va).toNat = va.toNat % 2 ^ s.shift.toNat ∧
    va.toNat = (vpnOf s.vpnMask s.shift va).toNat * 2 ^ s.shift.toNat + (offsetOf s.offsetMask va).toNat

/-- R114: `OutOfRange` is exactly an address at or beyond `2^ASB`, and cannot occur when `ASB = 32`. -/
def Obligations.OutOfRangeIsBeyondTheAddressSpace : Prop :=
  ∀ (s : State) (va : BitVec 32), s.lifecycle = .ready → ReadyFacts s →
    (exec (.translate va) s = .next { s with responses := s.responses ++ [.translate (.fault .outOfRange)] } ↔
      2 ^ s.asb.toNat ≤ va.toNat) ∧
    (s.asb = 32 →
      exec (.translate va) s ≠ .next { s with responses := s.responses ++ [.translate (.fault .outOfRange)] })

/-- R117: what the result does not depend on: of two states with the same constants, whose entries at the page number
agree in what the rule lets matter, the responses are the same; every other entry, `ASB` and `PAGE_BYTES` are free.  An
entry with `valid = 0` is `NotValid` whatever its other bits. -/
def Obligations.ResultDependsOnTheTestedBitsOnly : Prop :=
  ∀ (s s' : State) (va p p' : BitVec 32) (r : TranslateResult), s.lifecycle = .ready → s'.lifecycle = .ready →
    Coherent s → Coherent s' → s'.shift = s.shift → s'.length = s.length →
    s.pt[va.toNat / 2 ^ s.shift.toNat]? = some p → s'.pt[va.toNat / 2 ^ s.shift.toNat]? = some p' →
    p.getLsbD 0 = p'.getLsbD 0 → (p.getLsbD 0 = true → p.getLsbD 1 = p'.getLsbD 1) →
    (p.getLsbD 0 = true → p.getLsbD 1 = true → p.extractLsb' 12 20 = p'.extractLsb' 12 20) →
    exec (.translate va) s = .next { s with responses := s.responses ++ [.translate r] } →
    exec (.translate va) s' = .next { s' with responses := s'.responses ++ [.translate r] } ∧
      (p.getLsbD 0 = false → va.toNat / 2 ^ s.shift.toNat < s.length.toNat → r = .fault .notValid)

/-- R53: no operation depends on an index at or above `LENGTH`: PTRead answers nothing there, and TRANSLATE gives the
same response for two tables that agree below `LENGTH`. -/
def Obligations.EntriesBeyondLengthNeverMatter : Prop :=
  ∀ (s : State) (m : Memory), (∀ i, i < s.length.toNat → m[i]? = s.pt[i]?) →
    (∀ i, s.length.toNat ≤ i → ptRead s i = none) ∧
    ∀ (va : BitVec 32) (t : State), exec (.translate va) s = .next t →
      exec (.translate va) { s with pt := m } = .next { t with pt := m }

/-- R109: TRANSLATE writes no state: whatever the result, the next state is the state before with one response added. -/
def Obligations.TranslateWritesNoState : Prop :=
  ∀ (s t : State) (va : BitVec 32), exec (.translate va) s = .next t →
    s.lifecycle = .ready ∧ ∃ r, t = { s with responses := s.responses ++ [.translate r] }

/-- R136: a translation fault is a returned value: `STATE` stays `READY`, nothing but the response is written, and the
block serves the next request. -/
def Obligations.AfterAFaultTheNextRequestIsServed : Prop :=
  ∀ (s t : State) (va : BitVec 32) (k : FaultKind), Coherent s →
    exec (.translate va) s = .next t → t.responses = s.responses ++ [.translate (.fault k)] →
    t = { s with responses := s.responses ++ [.translate (.fault k)] } ∧ t.lifecycle = .ready ∧
    ∀ va', ∃ u, exec (.translate va') t = .next u

/-- R93: on a table BUILD left, which address translates to what: four cases, each with its result; a success exists
only when `LENGTH >= 4`, that is `ASB >= SHIFT + 2`. -/
def Obligations.FreshTableTranslations : Prop :=
  ∀ s : State, s.lifecycle = .ready → ReadyFacts s →
    (∀ va : BitVec 32,
      (2 ^ s.asb.toNat ≤ va.toNat →
        exec (.translate va) s = .next { s with responses := s.responses ++ [.translate (.fault .outOfRange)] }) ∧
      (va.toNat < 2 ^ s.asb.toNat → s.length.toNat / 2 ≤ va.toNat / 2 ^ s.shift.toNat →
        exec (.translate va) s = .next { s with responses := s.responses ++ [.translate (.fault .notValid)] }) ∧
      (va.toNat / 2 ^ s.shift.toNat < s.length.toNat / 2 → va.toNat / 2 ^ s.shift.toNat % 4 = 0 →
        exec (.translate va) s = .next { s with responses := s.responses ++ [.translate (.fault .notAccessible)] }) ∧
      (va.toNat / 2 ^ s.shift.toNat < s.length.toNat / 2 → va.toNat / 2 ^ s.shift.toNat % 4 ≠ 0 →
        ∃ pa, exec (.translate va) s = .next { s with responses := s.responses ++ [.translate (.success pa)] } ∧
          pa.toNat = 2 * (va.toNat / 2 ^ s.shift.toNat) * s.pageBytes.toNat + va.toNat % s.pageBytes.toNat)) ∧
    ((∃ va pa, exec (.translate va) s = .next { s with responses := s.responses ++ [.translate (.success pa)] }) ↔
      4 ≤ s.length.toNat) ∧
    (4 ≤ s.length.toNat ↔ s.shift.toNat + 2 ≤ s.asb.toNat)

/-- R119: the worked examples, in a block built with `BUILD 32, 4096`. -/
def Obligations.TranslateWorkedExamples : Prop :=
  ∀ s : State, s.lifecycle = .ready → ReadyFacts s → s.asb = 32 → s.shift = 12 →
    s.length.toNat = 2 ^ 20 ∧ s.pt[2]? = some 0x00004003#32 ∧ s.pt[3]? = some 0x00006003#32 ∧
    exec (.translate 0x00002000) s = .next { s with responses := s.responses ++ [.translate (.success 0x00004000)] } ∧
    exec (.translate 0x00001000) s = .next { s with responses := s.responses ++ [.translate (.success 0x00002000)] } ∧
    exec (.translate 0x00000000) s = .next { s with responses := s.responses ++ [.translate (.fault .notAccessible)] } ∧
    exec (.translate 0x00003ABC) s = .next { s with responses := s.responses ++ [.translate (.success 0x00006ABC)] }

/-! ### The page-table storage -/

/-- R42, R43: below `LENGTH` PTRead answers the word last written by PTWrite, and a write changes no other entry. -/
def Obligations.ReadAfterWriteOfTheTable : Prop :=
  ∀ (s : State) (i : Nat) (v : BitVec 32), i < s.length.toNat → i < s.pt.length →
    ptRead { s with pt := ptWrite s.pt i v } i = some v ∧
    (∀ j, j ≠ i → ptRead { s with pt := ptWrite s.pt i v } j = ptRead s j) ∧
    (ptWrite s.pt i v).length = s.pt.length

/-! ### Steps and runs -/

/-- A step runs the decoded request: it is `exec` of the operation on the state once the request is taken; a word of the
opcode table offered with `withFetchWord` is run as that operation. -/
def Obligations.StepServesTheDecodedRequest : Prop :=
  ∀ (s : State) (i : Instr),
    (∀ q rest, s.input = .request q :: rest → decode q = some i → step s = exec i { s with input := rest }) ∧
    (∀ nbits w, decodeTableWord nbits w = some i → step (s.withFetchWord nbits w) = exec i s)

/-- R142: with no event the block is idle, and idleness has no architectural effect. -/
def Obligations.IdleStepChangesNothing : Prop :=
  ∀ s : State, s.input = [] → step s = .next s

/-- R66, R140: a served request is answered by exactly one response, after those already given; a reset event and an
idle step give none.  The lists of events and responses are the model's (assumption 1), and that a reset event keeps the
events still to come and the responses given is its choice (assumption 5). -/
def Obligations.OneResponsePerServedRequest : Prop :=
  ∀ s t : State, step s = .next t →
    (∀ q rest, s.input = .request q :: rest →
      t.input = rest ∧ ∃ r, t.responses = s.responses ++ [r] ∧
        ((∃ b, r = .build b) ↔ ∃ asb pb, decode q = some (.build asb pb))) ∧
    (∀ rest, s.input = .reset :: rest → t.input = rest ∧ t.responses = s.responses) ∧
    (s.input = [] → t = s)

/-- R160: the reset event is served in every state and makes `STATE` `UNCONFIGURED`, so BUILD is served next whatever
its operands.  That the parameters, the events still to come and the responses given stay is the model's choice
(assumption 5). -/
def Obligations.ResetEventUnconfigures : Prop :=
  ∀ (s : State) (rest : List Input), s.input = .reset :: rest →
    ∃ t, step s = .next t ∧ t.lifecycle = .unconfigured ∧
      (∀ asb pb, ∃ u, exec (.build asb pb) t = .next u) ∧
      (∀ va, exec (.translate va) t = .refused (.translateNotAdmitted .unconfigured)) ∧
      t.config = s.config ∧ t.input = rest ∧ t.responses = s.responses

/-- R38: after reset `STATE` is `UNCONFIGURED` (0), and with it nothing can be translated before a BUILD. -/
def Obligations.ResetLeavesUnconfigured : Prop :=
  State.reset.lifecycle = .unconfigured ∧ lifecycleCode State.reset.lifecycle = 0 ∧
  (∀ asb pb, ∃ t, exec (.build asb pb) State.reset = .next t) ∧
  (∀ va, exec (.translate va) State.reset = .refused (.translateNotAdmitted .unconfigured))

/-- R38: none of the values that reset leaves unspecified can be observed: of two states the requester cannot tell
apart, registers and table free outside `READY`, every run of one is a run of the other with the same responses. The zeros
of assumption 2 and the free values of assumption 4 are therefore never seen. -/
def Obligations.UnspecifiedValuesAreNeverObserved : Prop :=
  ∀ (k : Nat) (s s' t : State), Indistinguishable s s' → RunsTo k s t →
    ∃ t', RunsTo k s' t' ∧ Indistinguishable t t' ∧ t'.responses = t.responses

/-- R39: whenever `STATE = READY` all of the rule's facts hold: with the bounds of `PT_CAPACITY` and of the storage they
are kept by every step from every state in which they hold. -/
def Obligations.EveryStepKeepsTheInvariant : Prop :=
  ∀ s t : State, Inv s → step s = .next t → Inv t

/-- The invariant holds at reset. -/
def Obligations.InvariantHoldsAtReset : Prop := Inv State.reset

/-- R42, R53: under the invariant no step faults: TRANSLATE never reads an entry that has no value. -/
def Obligations.NoStepFaultsUnderTheInvariant : Prop :=
  ∀ (s : State) (f : Fault), Inv s → step s ≠ .fault f

/-- R140: the admission table, complete: a request is served exactly in the two cases of the table, and otherwise
refused. -/
def Obligations.AdmissionTable : Prop :=
  ∀ (s : State) (q : BitVec 34) (rest : List Input), Inv s → s.input = .request q :: rest →
    ((∃ t, step s = .next t) ↔
      (∃ asb pb, decode q = some (.build asb pb) ∧ s.lifecycle = .unconfigured) ∨
      (∃ va, decode q = some (.translate va) ∧ s.lifecycle = .ready)) ∧
    ((∃ r, step s = .refused r) ↔
      ¬((∃ asb pb, decode q = some (.build asb pb) ∧ s.lifecycle = .unconfigured) ∨
        (∃ va, decode q = some (.translate va) ∧ s.lifecycle = .ready)))

/-- R137, R138: a halted block refuses every request, and only the reset event leads out of `HALTED`. -/
def Obligations.HaltedIsLeftByResetOnly : Prop :=
  ∀ s : State, s.lifecycle = .halted →
    (∀ q rest, s.input = .request q :: rest → ∃ r, step s = .refused r) ∧
    ∀ t, step s = .next t → t = s ∨ ∃ rest, s.input = .reset :: rest ∧ t.lifecycle = .unconfigured

/-- R24: the lifecycle changes in three ways only: a reset event, a BUILD that returns `BuildOk`, a BUILD that returns an
error. -/
def Obligations.LifecycleTransitions : Prop :=
  ∀ s t : State, step s = .next t → t.lifecycle ≠ s.lifecycle →
    (t.lifecycle = .unconfigured ∧ ∃ rest, s.input = .reset :: rest) ∨
    (s.lifecycle = .unconfigured ∧ t.lifecycle = .ready ∧ t.responses = s.responses ++ [.build .buildOk]) ∨
    (s.lifecycle = .unconfigured ∧ t.lifecycle = .halted ∧ ∃ e, t.responses = s.responses ++ [.build (.error e)])

/-- R36: once `READY`, no run without a reset event changes a register, the table or `STATE`. -/
def Obligations.ReadyBlockIsImmutable : Prop :=
  ∀ (k : Nat) (s t : State), s.lifecycle = .ready → WithinOneRun k s → RunsTo k s t → SameBlock s t

/-- R110: translating the same address again gives the same result, whatever was served in between. -/
def Obligations.TranslationIsIdempotentAcrossARun : Prop :=
  ∀ (k : Nat) (s t : State) (va : BitVec 32) (r : TranslateResult), s.lifecycle = .ready → WithinOneRun k s →
    RunsTo k s t →
    exec (.translate va) s = .next { s with responses := s.responses ++ [.translate r] } →
    exec (.translate va) t = .next { t with responses := t.responses ++ [.translate r] }

/-- R163: a good run that has given a BUILD's `BuildOk` ends `READY`, its other responses all
translations; one that has served no BUILD ends `UNCONFIGURED` with no response. -/
def Obligations.GoodRunsEndReadyOrUnconfigured : Prop :=
  ∀ (k : Nat) (s : State), s.lifecycle = .unconfigured → GoodRun k s →
    ∃ t, RunsTo k s t ∧
      ((t.lifecycle = .ready ∧ ∃ rs, t.responses = s.responses ++ .build .buildOk :: rs ∧
        ∀ r ∈ rs, ∃ x, r = .translate x) ∨
       (t.lifecycle = .unconfigured ∧ t.responses = s.responses))

/-- R7: no step changes the parameters of the block. -/
def Obligations.ParametersNeverChange : Prop :=
  ∀ s t : State, step s = .next t → t.config = s.config

/-- R7: the parameters of a block take exactly the values of the rule: every capacity from 1 to `2^20` and no other,
`2^20` by default, and the three decided values in every state; a legal BUILD whose table is longer than the capacity is
`ResourceExhaustion`. -/
def Obligations.ParametersTakeTheValuesOfTheRule : Prop :=
  (∀ n, (∃ c : Config, c.ptCapacity.val = n) ↔ 1 ≤ n ∧ n ≤ 2 ^ 20) ∧
  State.reset.config.ptCapacity.val = 2 ^ 20 ∧
  (∀ s : State, s.config.frameLsb.val = 12 ∧ s.config.requestBits.val = 34 ∧ s.config.responseBits.val = 35) ∧
  ∀ (s : State) (asb k : Nat), s.lifecycle = .unconfigured → 1 ≤ asb → asb ≤ 32 → k ≤ 12 → k ≤ asb →
    s.config.ptCapacity.val < 2 ^ (asb - k) →
    ∃ t, exec (.build asb (2 ^ k)) s = .next t ∧
      t.responses = s.responses ++ [.build (.error .resourceExhaustion)]
end

