-- ==== Sys2Proof/Laws/State.lean ====
section
/-! SUPPORT. What each update of the state leaves in each field. -/

namespace Sys2Proof.Machine

variable (s : State)

/-! ### `respond` -/

@[simp] theorem respond_lifecycle (r : Response) : (respond r s).lifecycle = s.lifecycle := rfl
@[simp] theorem respond_asb (r : Response) : (respond r s).asb = s.asb := rfl
@[simp] theorem respond_pageBytes (r : Response) : (respond r s).pageBytes = s.pageBytes := rfl
@[simp] theorem respond_shift (r : Response) : (respond r s).shift = s.shift := rfl
@[simp] theorem respond_offsetMask (r : Response) : (respond r s).offsetMask = s.offsetMask := rfl
@[simp] theorem respond_vpnMask (r : Response) : (respond r s).vpnMask = s.vpnMask := rfl
@[simp] theorem respond_length (r : Response) : (respond r s).length = s.length := rfl
@[simp] theorem respond_pt (r : Response) : (respond r s).pt = s.pt := rfl
@[simp] theorem respond_config (r : Response) : (respond r s).config = s.config := rfl
@[simp] theorem respond_input (r : Response) : (respond r s).input = s.input := rfl
@[simp] theorem respond_responses (r : Response) : (respond r s).responses = s.responses ++ [r] := rfl
@[simp] theorem respond_draws (r : Response) : (respond r s).draws = s.draws := rfl

/-! ### `returnFault` -/

@[simp] theorem returnFault_lifecycle (k : FaultKind) : (returnFault k s).lifecycle = s.lifecycle := rfl
@[simp] theorem returnFault_asb (k : FaultKind) : (returnFault k s).asb = s.asb := rfl
@[simp] theorem returnFault_pageBytes (k : FaultKind) : (returnFault k s).pageBytes = s.pageBytes := rfl
@[simp] theorem returnFault_shift (k : FaultKind) : (returnFault k s).shift = s.shift := rfl
@[simp] theorem returnFault_offsetMask (k : FaultKind) : (returnFault k s).offsetMask = s.offsetMask := rfl
@[simp] theorem returnFault_vpnMask (k : FaultKind) : (returnFault k s).vpnMask = s.vpnMask := rfl
@[simp] theorem returnFault_length (k : FaultKind) : (returnFault k s).length = s.length := rfl
@[simp] theorem returnFault_pt (k : FaultKind) : (returnFault k s).pt = s.pt := rfl
@[simp] theorem returnFault_config (k : FaultKind) : (returnFault k s).config = s.config := rfl
@[simp] theorem returnFault_input (k : FaultKind) : (returnFault k s).input = s.input := rfl
@[simp] theorem returnFault_responses (k : FaultKind) : (returnFault k s).responses = s.responses ++ [.translate (.fault k)] := rfl
@[simp] theorem returnFault_draws (k : FaultKind) : (returnFault k s).draws = s.draws := rfl

/-! ### `haltWith` -/

@[simp] theorem haltWith_lifecycle (e : BuildError) : (haltWith e s).lifecycle = .halted := rfl
@[simp] theorem haltWith_asb (e : BuildError) : (haltWith e s).asb = s.asb := rfl
@[simp] theorem haltWith_pageBytes (e : BuildError) : (haltWith e s).pageBytes = s.pageBytes := rfl
@[simp] theorem haltWith_shift (e : BuildError) : (haltWith e s).shift = s.shift := rfl
@[simp] theorem haltWith_offsetMask (e : BuildError) : (haltWith e s).offsetMask = s.offsetMask := rfl
@[simp] theorem haltWith_vpnMask (e : BuildError) : (haltWith e s).vpnMask = s.vpnMask := rfl
@[simp] theorem haltWith_length (e : BuildError) : (haltWith e s).length = s.length := rfl
@[simp] theorem haltWith_pt (e : BuildError) : (haltWith e s).pt = s.pt := rfl
@[simp] theorem haltWith_config (e : BuildError) : (haltWith e s).config = s.config := rfl
@[simp] theorem haltWith_input (e : BuildError) : (haltWith e s).input = s.input := rfl
@[simp] theorem haltWith_responses (e : BuildError) : (haltWith e s).responses = s.responses ++ [.build (.error e)] := rfl
@[simp] theorem haltWith_draws (e : BuildError) : (haltWith e s).draws = s.draws := rfl

/-! ### `commitTable` -/

@[simp] theorem commitTable_lifecycle (a p k : Nat) : (commitTable a p k s).lifecycle = .ready := rfl
@[simp] theorem commitTable_asb (a p k : Nat) : (commitTable a p k s).asb = BitVec.ofNat 6 a := rfl
@[simp] theorem commitTable_pageBytes (a p k : Nat) : (commitTable a p k s).pageBytes = BitVec.ofNat 13 p := rfl
@[simp] theorem commitTable_shift (a p k : Nat) : (commitTable a p k s).shift = BitVec.ofNat 4 k := rfl
@[simp] theorem commitTable_offsetMask (a p k : Nat) : (commitTable a p k s).offsetMask = offsetMaskOf k := rfl
@[simp] theorem commitTable_vpnMask (a p k : Nat) : (commitTable a p k s).vpnMask = vpnMaskOf k := rfl
@[simp] theorem commitTable_length (a p k : Nat) : (commitTable a p k s).length = BitVec.ofNat 21 (tableLength a k) := rfl
@[simp] theorem commitTable_pt (a p k : Nat) : (commitTable a p k s).pt = seedTable s.config.frameLsb.val (halfOf (tableLength a k)) (zeroTable (tableLength a k)) := rfl
@[simp] theorem commitTable_config (a p k : Nat) : (commitTable a p k s).config = s.config := rfl
@[simp] theorem commitTable_input (a p k : Nat) : (commitTable a p k s).input = s.input := rfl
@[simp] theorem commitTable_responses (a p k : Nat) : (commitTable a p k s).responses = s.responses := rfl
@[simp] theorem commitTable_draws (a p k : Nat) : (commitTable a p k s).draws = s.draws := rfl

/-! ### `offerInput` -/

@[simp] theorem offerInput_lifecycle (e : Input) : (offerInput e s).lifecycle = s.lifecycle := rfl
@[simp] theorem offerInput_asb (e : Input) : (offerInput e s).asb = s.asb := rfl
@[simp] theorem offerInput_pageBytes (e : Input) : (offerInput e s).pageBytes = s.pageBytes := rfl
@[simp] theorem offerInput_shift (e : Input) : (offerInput e s).shift = s.shift := rfl
@[simp] theorem offerInput_offsetMask (e : Input) : (offerInput e s).offsetMask = s.offsetMask := rfl
@[simp] theorem offerInput_vpnMask (e : Input) : (offerInput e s).vpnMask = s.vpnMask := rfl
@[simp] theorem offerInput_length (e : Input) : (offerInput e s).length = s.length := rfl
@[simp] theorem offerInput_pt (e : Input) : (offerInput e s).pt = s.pt := rfl
@[simp] theorem offerInput_config (e : Input) : (offerInput e s).config = s.config := rfl
@[simp] theorem offerInput_input (e : Input) : (offerInput e s).input = e :: s.input := rfl
@[simp] theorem offerInput_responses (e : Input) : (offerInput e s).responses = s.responses := rfl
@[simp] theorem offerInput_draws (e : Input) : (offerInput e s).draws = s.draws := rfl

/-! ### `resetEvent` -/

@[simp] theorem resetEvent_lifecycle : (resetEvent s).lifecycle = .unconfigured := rfl
@[simp] theorem resetEvent_asb : (resetEvent s).asb = Config.unspecifiedRegister 6 s.draws := rfl
@[simp] theorem resetEvent_pageBytes : (resetEvent s).pageBytes = Config.unspecifiedRegister 13 (s.draws + 1) := rfl
@[simp] theorem resetEvent_shift : (resetEvent s).shift = Config.unspecifiedRegister 4 (s.draws + 2) := rfl
@[simp] theorem resetEvent_offsetMask : (resetEvent s).offsetMask = Config.unspecifiedRegister 32 (s.draws + 3) := rfl
@[simp] theorem resetEvent_vpnMask : (resetEvent s).vpnMask = Config.unspecifiedRegister 32 (s.draws + 4) := rfl
@[simp] theorem resetEvent_length : (resetEvent s).length = Config.unspecifiedRegister 21 (s.draws + 5) := rfl
@[simp] theorem resetEvent_pt : (resetEvent s).pt = [] := rfl
@[simp] theorem resetEvent_config : (resetEvent s).config = s.config := rfl
@[simp] theorem resetEvent_input : (resetEvent s).input = s.input := rfl
@[simp] theorem resetEvent_responses : (resetEvent s).responses = s.responses := rfl
@[simp] theorem resetEvent_draws : (resetEvent s).draws = s.draws + 6 := rfl

/-! ### `idle` -/

@[simp] theorem idle_lifecycle : (idle s).lifecycle = s.lifecycle := rfl
@[simp] theorem idle_asb : (idle s).asb = s.asb := rfl
@[simp] theorem idle_pageBytes : (idle s).pageBytes = s.pageBytes := rfl
@[simp] theorem idle_shift : (idle s).shift = s.shift := rfl
@[simp] theorem idle_offsetMask : (idle s).offsetMask = s.offsetMask := rfl
@[simp] theorem idle_vpnMask : (idle s).vpnMask = s.vpnMask := rfl
@[simp] theorem idle_length : (idle s).length = s.length := rfl
@[simp] theorem idle_pt : (idle s).pt = s.pt := rfl
@[simp] theorem idle_config : (idle s).config = s.config := rfl
@[simp] theorem idle_input : (idle s).input = s.input := rfl
@[simp] theorem idle_responses : (idle s).responses = s.responses := rfl
@[simp] theorem idle_draws : (idle s).draws = s.draws := rfl

/-! ### `offerRequests` -/

@[simp] theorem offerRequests_lifecycle (is : List Instr) : (offerRequests is s).lifecycle = s.lifecycle := rfl
@[simp] theorem offerRequests_asb (is : List Instr) : (offerRequests is s).asb = s.asb := rfl
@[simp] theorem offerRequests_pageBytes (is : List Instr) : (offerRequests is s).pageBytes = s.pageBytes := rfl
@[simp] theorem offerRequests_shift (is : List Instr) : (offerRequests is s).shift = s.shift := rfl
@[simp] theorem offerRequests_offsetMask (is : List Instr) : (offerRequests is s).offsetMask = s.offsetMask := rfl
@[simp] theorem offerRequests_vpnMask (is : List Instr) : (offerRequests is s).vpnMask = s.vpnMask := rfl
@[simp] theorem offerRequests_length (is : List Instr) : (offerRequests is s).length = s.length := rfl
@[simp] theorem offerRequests_pt (is : List Instr) : (offerRequests is s).pt = s.pt := rfl
@[simp] theorem offerRequests_config (is : List Instr) : (offerRequests is s).config = s.config := rfl
@[simp] theorem offerRequests_input (is : List Instr) : (offerRequests is s).input = s.input ++ is.map fun i => .request (encode i) := rfl
@[simp] theorem offerRequests_responses (is : List Instr) : (offerRequests is s).responses = s.responses := rfl
@[simp] theorem offerRequests_draws (is : List Instr) : (offerRequests is s).draws = s.draws := rfl

/-! ### The parameters of R7 -/

theorem config_ptCapacity_range (c : Config) : 1 ≤ c.ptCapacity.val ∧ c.ptCapacity.val ≤ 2 ^ 20 := c.ptCapacity.property

@[simp] theorem config_frameLsb (c : Config) : c.frameLsb.val = 12 := c.frameLsb.property

@[simp] theorem config_requestBits (c : Config) : c.requestBits.val = 34 := c.requestBits.property

@[simp] theorem config_responseBits (c : Config) : c.responseBits.val = 35 := c.responseBits.property

/-! ### Taking an event -/

theorem takeInput_eq_none_iff : takeInput s = none ↔ s.input = [] := by
  unfold takeInput; split <;> simp_all

theorem takeInput_eq_some_iff (e : Input) (t : State) :
    takeInput s = some (e, t) ↔ ∃ rest, s.input = e :: rest ∧ t = { s with input := rest } := by
  unfold takeInput
  split <;> rename_i h
  · simp [h]
  · constructor
    · intro hs; cases hs; exact ⟨_, h, rfl⟩
    · rintro ⟨rest, hr, rfl⟩; rw [h] at hr; cases hr; rfl

/-! ### The block's state -/

theorem SameBlock.refl (s : State) : SameBlock s s := ⟨rfl, rfl, rfl, rfl, rfl, rfl, rfl, rfl⟩

theorem SameBlock.trans {s t u : State} (h : SameBlock s t) (g : SameBlock t u) : SameBlock s u :=
  ⟨h.1.trans g.1, h.2.trans g.2, h.3.trans g.3, h.4.trans g.4, h.5.trans g.5, h.6.trans g.6, h.7.trans g.7, h.8.trans g.8⟩

/-- A response and the events still to come are no part of the block's state. -/
theorem sameBlock_respond (r : Response) : SameBlock s (respond r s) := ⟨rfl, rfl, rfl, rfl, rfl, rfl, rfl, rfl⟩

end Sys2Proof.Machine
end

