-- ==== Sys2Proof/Laws/Operands.lean ====
section
/-! SUPPORT. The values of what is computed from operands: one lemma per function. -/

namespace Sys2Proof.Machine

/-! ### The configuration check -/

theorem log2Page_eq_some_iff (p k : Nat) : log2Page p = some k ↔ k ≤ 12 ∧ 2 ^ k = p := by
  unfold log2Page
  constructor
  · intro h
    have hm := List.mem_of_find?_eq_some h
    have hp := List.find?_some h
    simp only [List.mem_range, beq_iff_eq] at hm hp
    exact ⟨by omega, hp⟩
  · rintro ⟨hk, rfl⟩
    interval_cases k <;> rfl

theorem log2Page_eq_none_iff (p : Nat) : log2Page p = none ↔ ∀ k, k ≤ 12 → 2 ^ k ≠ p := by
  constructor
  · intro h k hk hp
    have := (log2Page_eq_some_iff p k).2 ⟨hk, hp⟩
    simp [h] at this
  · intro h
    cases hl : log2Page p with
    | none => rfl
    | some k =>
      obtain ⟨hk, hp⟩ := (log2Page_eq_some_iff p k).1 hl
      exact absurd hp (h k hk)

/-- A legal pair (R82), and the shift amount the check answers for it. -/
theorem checkConfig_eq_some_iff (asb pb k : Nat) :
    checkConfig asb pb = some k ↔ (1 ≤ asb ∧ asb ≤ 32) ∧ k ≤ 12 ∧ 2 ^ k = pb ∧ k ≤ asb := by
  have hpos : ∀ j, j ≤ 12 → 1 ≤ 2 ^ j ∧ 2 ^ j ≤ 4096 := by decide
  unfold checkConfig
  constructor
  · intro h
    split at h
    · simp at h
    split at h
    · simp at h
    split at h
    · simp at h
    rename_i j hj
    split at h
    · simp at h
    cases h
    obtain ⟨hk, hp⟩ := (log2Page_eq_some_iff pb k).1 hj
    exact ⟨by omega, hk, hp, by omega⟩
  · rintro ⟨ha, hk, rfl, hka⟩
    have := hpos k hk
    rw [if_neg (by omega), if_neg (by omega), (log2Page_eq_some_iff (2 ^ k) k).2 ⟨hk, rfl⟩]
    simp [Nat.not_lt.2 hka]

theorem checkConfig_eq_none_iff (asb pb : Nat) :
    checkConfig asb pb = none ↔ ∀ k, ¬((1 ≤ asb ∧ asb ≤ 32) ∧ k ≤ 12 ∧ 2 ^ k = pb ∧ k ≤ asb) := by
  constructor
  · intro h k hk
    have := (checkConfig_eq_some_iff asb pb k).2 hk
    simp [h] at this
  · intro h
    cases hc : checkConfig asb pb with
    | none => rfl
    | some k => exact absurd ((checkConfig_eq_some_iff asb pb k).1 hc) (h k)

/-! ### The masks -/

theorem pow_shift_bounds {k : Nat} (hk : k ≤ 12) : 1 ≤ 2 ^ k ∧ 2 ^ k ≤ 4096 := by
  revert k; decide

theorem offsetMaskOf_toNat {k : Nat} (hk : k ≤ 12) : (offsetMaskOf k).toNat = 2 ^ k - 1 := by
  have := pow_shift_bounds hk
  simp only [offsetMaskOf, word32, BitVec.toNat_ofNat]
  exact Nat.mod_eq_of_lt (by omega)

theorem vpnMaskOf_toNat {k : Nat} (hk : k ≤ 12) : (vpnMaskOf k).toNat = 2 ^ 32 - 2 ^ k := by
  have := pow_shift_bounds hk
  simp only [vpnMaskOf, BitVec.toNat_not, offsetMaskOf_toNat hk]
  omega

theorem eq_offsetMaskOf {m : Word} {k : Nat} (hk : k ≤ 12) (h : m.toNat = 2 ^ k - 1) : m = offsetMaskOf k :=
  BitVec.eq_of_toNat_eq (h.trans (offsetMaskOf_toNat hk).symm)

theorem eq_vpnMaskOf {m : Word} {k : Nat} (hk : k ≤ 12) (h : m.toNat = 2 ^ 32 - 2 ^ k) : m = vpnMaskOf k :=
  BitVec.eq_of_toNat_eq (h.trans (vpnMaskOf_toNat hk).symm)

theorem offsetMaskOf_getLsbD {k : Nat} (hk : k ≤ 12) (j : Nat) : (offsetMaskOf k).getLsbD j = decide (j < k) := by
  have h32 : j < k → j < 32 := by omega
  simp only [offsetMaskOf, word32, BitVec.getLsbD_ofNat, Nat.testBit_two_pow_sub_one]
  by_cases hj : j < k <;> simp [hj]
  omega

theorem vpnMaskOf_getLsbD {k : Nat} (hk : k ≤ 12) (j : Nat) :
    (vpnMaskOf k).getLsbD j = (decide (j < 32) && decide (k ≤ j)) := by
  simp only [vpnMaskOf, BitVec.getLsbD_not, offsetMaskOf_getLsbD hk]
  by_cases hj : j < k <;> by_cases h32 : j < 32 <;> simp [hj, h32]
  omega

theorem masks_and {k : Nat} : offsetMaskOf k &&& vpnMaskOf k = 0 := by
  simp [vpnMaskOf]

theorem masks_or {k : Nat} : offsetMaskOf k ||| vpnMaskOf k = 0xFFFFFFFF := by
  have h : (0xFFFFFFFF : Word) = BitVec.allOnes 32 := by decide
  rw [h, vpnMaskOf]
  ext j hj
  simp

/-! ### The split of a virtual address -/

theorem vpnOf_toNat {k : BitVec 4} (hk : k.toNat ≤ 12) (va : Word) :
    (vpnOf (vpnMaskOf k.toNat) k va).toNat = va.toNat / 2 ^ k.toNat := by
  have h : vpnOf (vpnMaskOf k.toNat) k va = va >>> k.toNat := by
    apply BitVec.eq_of_getLsbD_eq
    intro j hj
    simp only [vpnOf, BitVec.getLsbD_ushiftRight, BitVec.getLsbD_and, vpnMaskOf_getLsbD hk]
    by_cases hb : k.toNat + j < 32
    · simp [hb]
    · simp [BitVec.getLsbD_of_ge va (k.toNat + j) (by omega)]
  rw [h, BitVec.toNat_ushiftRight, Nat.shiftRight_eq_div_pow]

theorem offsetOf_toNat {k : Nat} (hk : k ≤ 12) (va : Word) :
    (offsetOf (offsetMaskOf k) va).toNat = va.toNat % 2 ^ k := by
  simp only [offsetOf, BitVec.toNat_and, offsetMaskOf_toNat hk, Nat.and_two_pow_sub_one_eq_mod]

theorem physicalAddress_toNat {k : BitVec 4} (hk : k.toNat ≤ 12) (frame : BitVec Config.frameBits) {offset : Word}
    (ho : offset.toNat < 2 ^ k.toNat) :
    (physicalAddress k frame offset).toNat = frame.toNat * 2 ^ k.toNat + offset.toNat := by
  have hf : frame.toNat < 2 ^ 20 := frame.isLt
  have hb := pow_shift_bounds hk
  have hlt : frame.toNat * 2 ^ k.toNat < 2 ^ 32 := by
    calc frame.toNat * 2 ^ k.toNat < 2 ^ 20 * 2 ^ k.toNat := by
          exact Nat.mul_lt_mul_of_pos_right hf (by omega)
      _ ≤ 2 ^ 20 * 4096 := Nat.mul_le_mul_left _ hb.2
      _ = 2 ^ 32 := by decide
  simp only [physicalAddress, BitVec.toNat_or, BitVec.toNat_shiftLeft, BitVec.toNat_setWidth]
  rw [Nat.mod_eq_of_lt (a := frame.toNat) (by omega), Nat.shiftLeft_eq, Nat.mod_eq_of_lt hlt, Nat.mul_comm,
    ← Nat.two_pow_add_eq_or_of_lt ho]

/-! ### Entries -/

theorem pteNotValid_iff (p : Pte) : pteNotValid p = true ↔ p.getLsbD 0 = false := by
  have h : pteNotValid p = !p.getLsbD 0 := by
    unfold pteNotValid
    rw [Bool.eq_iff_iff]
    simp only [beq_iff_eq, Bool.not_eq_eq_eq_not, Bool.not_true]
    constructor
    · intro h
      have := congrArg (fun w => w.getLsbD 0) h
      simpa using this
    · intro h
      apply BitVec.eq_of_getLsbD_eq
      intro j hj
      rcases j with _ | j
      · simpa using h
      · simp [BitVec.getLsbD_ofNat, Nat.testBit_succ]
  rw [h]; simp

theorem pteNotAccessible_iff (p : Pte) :
    pteNotAccessible p = true ↔ p.getLsbD 0 = true ∧ p.getLsbD 1 = false := by
  unfold pteNotAccessible
  rw [beq_iff_eq]
  constructor
  · intro h
    have h0 := congrArg (fun w => w.getLsbD 0) h
    have h1 := congrArg (fun w => w.getLsbD 1) h
    exact ⟨by simpa using h0, by simpa [BitVec.getLsbD_ofNat, Nat.testBit_succ] using h1⟩
  · rintro ⟨h0, h1⟩
    apply BitVec.eq_of_getLsbD_eq
    intro j hj
    rcases j with _ | _ | j
    · simpa using h0
    · simpa using h1
    · simp [BitVec.getLsbD_ofNat, Nat.testBit_succ]

theorem pteFrame_toNat (p : Pte) : (pteFrame 12 p).toNat = p.toNat / 4096 := by
  have := p.isLt
  simp only [pteFrame, Config.frameBits, BitVec.extractLsb'_toNat, Nat.shiftRight_eq_div_pow]
  omega

theorem append_toNat {m n : Nat} (x : BitVec m) (y : BitVec n) : (x ++ y).toNat = x.toNat * 2 ^ n + y.toNat := by
  rw [BitVec.toNat_append, ← Nat.shiftLeft_add_eq_or_of_lt y.isLt, Nat.shiftLeft_eq]

theorem pteOf_toNat (f : BitVec Config.frameBits) (a v : Bool) :
    (pteOf 12 f a v).toNat = f.toNat * 4096 + a.toNat * 2 + v.toNat := by
  have hf : f.toNat < 2 ^ 20 := f.isLt
  have ha := a.toNat_lt
  have hv := v.toNat_lt
  have e : (f.setWidth 32 <<< 12 : Word).toNat = 2 ^ 12 * f.toNat := by
    rw [BitVec.toNat_shiftLeft, BitVec.toNat_setWidth, Nat.shiftLeft_eq]
    omega
  have l : ((BitVec.ofBool a ++ BitVec.ofBool v).setWidth 32).toNat = a.toNat * 2 + v.toNat := by
    rw [BitVec.toNat_setWidth, append_toNat, BitVec.toNat_ofBool, BitVec.toNat_ofBool]
    omega
  rw [pteOf, BitVec.toNat_or, e, l, ← Nat.two_pow_add_eq_or_of_lt (by omega)]
  omega

/-- With `FRAME_LSB` 12 the entry is the concatenation R88 writes. -/
theorem pteOf_eq_fields (f : BitVec Config.frameBits) (a v : Bool) :
    pteOf 12 f a v = f ++ 0#10 ++ BitVec.ofBool a ++ BitVec.ofBool v := by
  apply BitVec.eq_of_toNat_eq
  rw [pteOf_toNat]
  simp only [append_toNat, BitVec.toNat_ofBool, BitVec.toNat_ofNat]
  omega

/-- The seeded entry as a number (R88). -/
theorem seedEntry_toNat {i : Nat} (hi : 2 * i < 2 ^ 20) :
    (seedEntry 12 i).toNat = 8192 * i + if i % 4 = 0 then 1 else 3 := by
  have hf : (BitVec.ofNat Config.frameBits (2 * i)).toNat = 2 * i := by
    rw [BitVec.toNat_ofNat]; exact Nat.mod_eq_of_lt hi
  rw [seedEntry, pteOf_toNat, hf]
  by_cases h : i % 4 = 0
  · rw [if_pos h, show (i % 4 != 0) = false by simp [h]]
    simp only [Bool.toNat_false, Bool.toNat_true]
    omega
  · rw [if_neg h, show (i % 4 != 0) = true by simp [h]]
    simp only [Bool.toNat_true]
    omega

theorem seedEntry_eq_word32 {i : Nat} (hi : 2 * i < 2 ^ 20) :
    seedEntry 12 i = word32 (8192 * i + if i % 4 = 0 then 1 else 3) := by
  apply BitVec.eq_of_toNat_eq
  rw [seedEntry_toNat hi, BitVec.toNat_ofNat]
  refine (Nat.mod_eq_of_lt ?_).symm
  split <;> omega

end Sys2Proof.Machine
end

