-- ==== Sys2Proof/Laws/Build.lean ====
section
/-! SUPPORT. The page-table storage: reads after writes, the two bulk writes of BUILD and their loops, the form of the
storage; and what BUILD can do. -/

namespace Sys2Proof.Machine

/-! ### One entry -/

theorem ptWrite_length (m : Memory) (i : Nat) (v : Pte) : (ptWrite m i v).length = m.length := by
  simp [ptWrite]

theorem ptWrite_getElem?_same {m : Memory} {i : Nat} (h : i < m.length) (v : Pte) :
    (ptWrite m i v)[i]? = some v := by
  simp [ptWrite, h]

theorem ptWrite_getElem?_other (m : Memory) {i j : Nat} (h : i ≠ j) (v : Pte) : (ptWrite m i v)[j]? = m[j]? := by
  simp [ptWrite, h]

theorem ptRead_of_lt {s : State} {i : Nat} (h : i < s.length.toNat) : ptRead s i = s.pt[i]? := by
  simp [ptRead, h]

theorem ptRead_of_le {s : State} {i : Nat} (h : s.length.toNat ≤ i) : ptRead s i = none := by
  simp [ptRead, Nat.not_lt.2 h]

/-! ### The bulk writes -/

theorem zeroTable_length (n : Nat) : (zeroTable n).length = n := by simp [zeroTable]

theorem seedTable_length (lsb half : Nat) (m : Memory) : (seedTable lsb half m).length = m.length := by simp [seedTable]

theorem seedTable_getElem? (lsb half : Nat) (m : Memory) (i : Nat) :
    (seedTable lsb half m)[i]? = if i < half then m[i]?.map fun _ => seedEntry lsb i else m[i]? := by
  simp only [seedTable, List.getElem?_map, List.getElem?_zipIdx, Option.map_map]
  cases m[i]? <;> by_cases h : i < half <;> simp [h]

theorem builtTable_length (lsb half n : Nat) : (seedTable lsb half (zeroTable n)).length = n := by
  rw [seedTable_length, zeroTable_length]

theorem builtTable_getElem? (lsb half n i : Nat) :
    (seedTable lsb half (zeroTable n))[i]? = if i < n then some (if i < half then seedEntry lsb i else 0) else none := by
  rw [seedTable_getElem?]
  by_cases hn : i < n <;> by_cases hh : i < half <;> simp [zeroTable, hn, hh]

/-! ### The bulk writes are the loops of R91 -/

theorem foldl_ptWrite_length (f : Nat → Pte) (is : List Nat) (m : Memory) :
    (is.foldl (fun m i => ptWrite m i (f i)) m).length = m.length := by
  induction is generalizing m with
  | nil => rfl
  | cons i is ih => rw [List.foldl_cons, ih, ptWrite_length]

/-- A loop of writes `f i` over the indices below `n`: those entries hold `f`, the others are as they were. -/
theorem foldl_ptWrite_getElem? (f : Nat → Pte) (n : Nat) (m : Memory) (j : Nat) :
    ((List.range n).foldl (fun m i => ptWrite m i (f i)) m)[j]? =
      if j < n then m[j]?.map fun _ => f j else m[j]? := by
  induction n with
  | zero => simp
  | succ n ih =>
    rw [List.range_succ, List.foldl_append, List.foldl_cons, List.foldl_nil]
    have hlen := foldl_ptWrite_length f (List.range n) m
    rcases Nat.lt_trichotomy j n with h | rfl | h
    · rw [ptWrite_getElem?_other _ (by omega), ih, if_pos h, if_pos (by omega)]
    · rw [if_pos (by omega)]
      by_cases hj : j < m.length
      · rw [ptWrite_getElem?_same (by omega)]
        simp [hj]
      · have hn : m[j]? = none := List.getElem?_eq_none (by omega)
        rw [hn, List.getElem?_eq_none (by rw [ptWrite_length, hlen]; omega)]
        rfl
    · rw [ptWrite_getElem?_other _ (by omega), ih, if_neg (by omega), if_neg (by omega)]

/-- The zero-initialisation is the first loop of R91. -/
theorem zeroTable_eq_loop (n : Nat) (m : Memory) (h : m.length = n) :
    (List.range n).foldl (fun m i => ptWrite m i 0) m = zeroTable n := by
  apply List.ext_getElem?
  intro j
  rw [foldl_ptWrite_getElem? (fun _ => 0)]
  by_cases hj : j < n
  · simp [zeroTable, hj, h]
  · have hn : m[j]? = none := List.getElem?_eq_none (by omega)
    simp [zeroTable, hj, hn]

/-- The seeding is the second loop of R91. -/
theorem seedTable_eq_loop (lsb half : Nat) (m : Memory) :
    (List.range half).foldl (fun m i => ptWrite m i (seedEntry lsb i)) m = seedTable lsb half m := by
  apply List.ext_getElem?
  intro j
  rw [foldl_ptWrite_getElem? (seedEntry lsb), seedTable_getElem?]

/-! ### The form of the storage -/

theorem ptWrite_wf {cap : Nat} {m : Memory} (h : Memory.wf cap m = true) (i : Nat) (v : Pte) :
    Memory.wf cap (ptWrite m i v) = true := by
  simpa [Memory.wf, ptWrite_length] using h

theorem seedTable_wf {cap : Nat} {m : Memory} (h : Memory.wf cap m = true) (lsb half : Nat) :
    Memory.wf cap (seedTable lsb half m) = true := by
  simpa [Memory.wf, seedTable_length] using h

theorem zeroTable_wf {cap n : Nat} (h : n ≤ cap) : Memory.wf cap (zeroTable n) = true := by
  simpa [Memory.wf, zeroTable_length] using h

theorem commitTable_wf {cap a p k : Nat} (h : tableLength a k ≤ cap) (s : State) :
    Memory.wf cap (commitTable a p k s).pt = true := seedTable_wf (zeroTable_wf h) _ _

theorem reset_wf : Memory.wf State.reset.config.ptCapacity.val State.reset.pt = true := by decide

/-! ### What BUILD can do -/

/-- The three ways a served BUILD ends (R91). -/
theorem buildServed_cases (asb pb : Nat) (s : State) :
    (checkConfig asb pb = none ∧ buildServed asb pb s = haltWith .configurationError s) ∨
    (∃ k, checkConfig asb pb = some k ∧ s.config.ptCapacity.val < tableLength asb k ∧
      buildServed asb pb s = haltWith .resourceExhaustion s) ∨
    (∃ k, checkConfig asb pb = some k ∧ tableLength asb k ≤ s.config.ptCapacity.val ∧
      buildServed asb pb s = respond (.build .buildOk) (commitTable asb pb k s)) := by
  unfold buildServed
  cases h : checkConfig asb pb with
  | none => exact .inl ⟨rfl, rfl⟩
  | some k =>
    by_cases hc : s.config.ptCapacity.val < tableLength asb k
    · exact .inr (.inl ⟨k, rfl, hc, by simp [hc]⟩)
    · exact .inr (.inr ⟨k, rfl, by omega, by simp [hc]⟩)

theorem execBuild_of_unconfigured {s : State} (h : s.lifecycle = .unconfigured) (asb pb : Nat) :
    execBuild asb pb s = .next (buildServed asb pb s) := by
  simp [execBuild, h]

theorem execBuild_refused {s : State} (h : s.lifecycle ≠ .unconfigured) (asb pb : Nat) :
    execBuild asb pb s = .refused (.buildNotAdmitted s.lifecycle) := by
  unfold execBuild
  cases hl : s.lifecycle <;> simp_all

theorem capacity_lt (s : State) : s.config.ptCapacity.val < 2 ^ 21 := by
  have := config_ptCapacity_range s.config
  omega

/-- A legal pair whose table fits: what BUILD commits satisfies R39, fact for fact. -/
theorem readyFacts_commitTable {s : State} {asb k : Nat} (h1 : 1 ≤ asb) (h2 : asb ≤ 32) (hk : k ≤ 12) (hka : k ≤ asb)
    (hc : 2 ^ (asb - k) ≤ s.config.ptCapacity.val) : ReadyFacts (commitTable asb (2 ^ k) k s) := by
  have hb := pow_shift_bounds hk
  have hcap := capacity_lt s
  have hframe : ∀ i, i < 2 ^ (asb - k) / 2 → 2 * i < 2 ^ 20 := by
    intro i hi
    have := config_ptCapacity_range s.config
    omega
  have ea : (commitTable asb (2 ^ k) k s).asb.toNat = asb := by simp; omega
  have ek : (commitTable asb (2 ^ k) k s).shift.toNat = k := by simp; omega
  have el : (commitTable asb (2 ^ k) k s).length.toNat = 2 ^ (asb - k) := by
    simp only [commitTable_length, BitVec.toNat_ofNat, tableLength]
    exact Nat.mod_eq_of_lt (by omega)
  have ep : ∀ i, (commitTable asb (2 ^ k) k s).pt[i]? =
      if i < 2 ^ (asb - k) then some (if i < 2 ^ (asb - k) / 2 then seedEntry 12 i else 0) else none := by
    intro i
    rw [commitTable_pt, config_frameLsb]
    exact builtTable_getElem? 12 (halfOf (tableLength asb k)) (tableLength asb k) i
  constructor
  case asb_range => omega
  case pageBytes_eq => rw [ek, commitTable_pageBytes, BitVec.toNat_ofNat]; exact Nat.mod_eq_of_lt (by omega)
  case shift_le => omega
  case shift_le_asb => omega
  case offsetMask_eq => rw [ek]; exact offsetMaskOf_toNat hk
  case vpnMask_eq => rw [ek]; exact vpnMaskOf_toNat hk
  case masks_disjoint => exact masks_and
  case masks_cover => exact masks_or
  case length_eq => rw [ea, ek, el]
  case length_range => rw [el]; exact ⟨Nat.one_le_two_pow, hc⟩
  case pt_length => rw [el]; exact builtTable_length _ _ _
  case pt_seeded =>
    intro i hi
    rw [el] at hi
    rw [ep, if_pos (by omega), if_pos hi, seedEntry_eq_word32 (hframe i hi)]
  case pt_unmapped =>
    intro i hi hl
    rw [el] at hi hl
    rw [ep, if_pos hl, if_neg (by omega)]

theorem execBuild_eq_next {s t : State} {asb pb : Nat} (h : execBuild asb pb s = .next t) :
    s.lifecycle = .unconfigured ∧ t = buildServed asb pb s := by
  unfold execBuild at h
  cases hl : s.lifecycle <;> simp [hl] at h
  exact ⟨rfl, h.symm⟩

end Sys2Proof.Machine
end

