-- ==== Sys2Proof/Laws/Decode.lean ====
section
/-! SUPPORT. The fields of a request word, of the word an operation is encoded as, and of a response word. -/

namespace Sys2Proof

/-! ### The fields of an encoded operation -/

theorem opField_encode_build (asb pb : Nat) : opField (encode (.build asb pb)) = 0b00#2 := by
  apply BitVec.eq_of_toNat_eq
  have h6 := (BitVec.ofNat 6 asb).isLt
  have h13 := (BitVec.ofNat 13 pb).isLt
  simp only [opField, encode, BitVec.extractLsb'_toNat, Machine.append_toNat, Nat.shiftRight_eq_div_pow]
  simp only [BitVec.toNat_ofNat] at *
  omega

theorem rsvField_encode_build (asb pb : Nat) : rsvField (encode (.build asb pb)) = 0#13 := by
  apply BitVec.eq_of_toNat_eq
  have h6 := (BitVec.ofNat 6 asb).isLt
  have h13 := (BitVec.ofNat 13 pb).isLt
  simp only [rsvField, encode, BitVec.extractLsb'_toNat, Machine.append_toNat, Nat.shiftRight_eq_div_pow]
  simp only [BitVec.toNat_ofNat] at *
  omega

theorem asbField_encode_build (asb pb : Nat) : asbField (encode (.build asb pb)) = BitVec.ofNat 6 asb := by
  apply BitVec.eq_of_toNat_eq
  have h6 := (BitVec.ofNat 6 asb).isLt
  have h13 := (BitVec.ofNat 13 pb).isLt
  simp only [asbField, encode, BitVec.extractLsb'_toNat, Machine.append_toNat, Nat.shiftRight_eq_div_pow]
  simp only [BitVec.toNat_ofNat] at *
  omega

theorem pbField_encode_build (asb pb : Nat) : pbField (encode (.build asb pb)) = BitVec.ofNat 13 pb := by
  apply BitVec.eq_of_toNat_eq
  have h6 := (BitVec.ofNat 6 asb).isLt
  have h13 := (BitVec.ofNat 13 pb).isLt
  simp only [pbField, encode, BitVec.extractLsb'_toNat, Machine.append_toNat, Nat.shiftRight_eq_div_pow]
  simp only [BitVec.toNat_ofNat] at *
  omega

theorem opField_encode_translate (va : Word) : opField (encode (.translate va)) = 0b01#2 := by
  apply BitVec.eq_of_toNat_eq
  have h32 := va.isLt
  simp only [opField, encode, BitVec.extractLsb'_toNat, Machine.append_toNat, Nat.shiftRight_eq_div_pow,
    BitVec.toNat_ofNat]
  omega

theorem vaField_encode_translate (va : Word) : vaField (encode (.translate va)) = va := by
  apply BitVec.eq_of_toNat_eq
  have h32 := va.isLt
  simp only [vaField, encode, BitVec.extractLsb'_toNat, Machine.append_toNat, Nat.shiftRight_eq_div_pow,
    BitVec.toNat_ofNat]
  omega

/-! ### What the decoder answers -/

theorem decode_eq_build_iff (q : RequestWord) (asb pb : Nat) :
    decode q = some (.build asb pb) ↔
      (opField q = 0b00#2 ∧ rsvField q = 0#13) ∧ (asbField q).toNat = asb ∧ (pbField q).toNat = pb := by
  unfold decode
  split
  · simp_all
  · split <;> simp_all

theorem decode_eq_translate_iff (q : RequestWord) (va : Word) :
    decode q = some (.translate va) ↔ opField q = 0b01#2 ∧ vaField q = va := by
  unfold decode
  split
  · rename_i h
    simp [h.1]
  · split <;> simp_all

theorem decode_eq_none_iff (q : RequestWord) :
    decode q = none ↔ (opField q = 0b00#2 → rsvField q ≠ 0#13) ∧ opField q ≠ 0b01#2 := by
  unfold decode
  split
  · rename_i h
    simp [h.1, h.2]
  · split <;> simp_all

end Sys2Proof

namespace Sys2Proof.Machine

/-! ### The fields of a response word -/

theorem responseWord_status (free : Word) (r : Response) : (responseWord free r).extractLsb' 32 3 = statusOf r := by
  apply BitVec.eq_of_toNat_eq
  have hs := (statusOf r).isLt
  have hp := (paBitsOf free r).isLt
  simp only [responseWord, BitVec.extractLsb'_toNat, append_toNat, Nat.shiftRight_eq_div_pow]
  omega

theorem responseWord_pa (free : Word) (r : Response) : (responseWord free r).extractLsb' 0 32 = paBitsOf free r := by
  apply BitVec.eq_of_toNat_eq
  have hs := (statusOf r).isLt
  have hp := (paBitsOf free r).isLt
  simp only [responseWord, BitVec.extractLsb'_toNat, append_toNat, Nat.shiftRight_eq_div_pow]
  omega

end Sys2Proof.Machine
end

