-- ==== Sys2Proof/Laws/PerInstr.lean ====
section
/-! SUPPORT. Facts about every operation, one lemma per constructor of Instr. -/

namespace Sys2Proof.Laws

/-- The `op` value of an operation (R61). -/
def opOf : Instr → BitVec 2
  | .build _ _ => 0b00#2
  | .translate _ => 0b01#2

/-- The `op` field of an encoded operation is its operation's (R61). -/
def EncodedOp.Statement (i : Instr) : Prop := opField (encode i) = opOf i

theorem EncodedOp.build (asb pb : Nat) : EncodedOp.Statement (.build asb pb) := opField_encode_build asb pb

theorem EncodedOp.translate (va : Word) : EncodedOp.Statement (.translate va) := opField_encode_translate va

end Sys2Proof.Laws
end

