-- ==== Sys2Proof/Laws/Translate.lean ====
section
/-! SUPPORT. What TRANSLATE can do. -/

namespace Sys2Proof.Machine

/-- Whatever the result, the state it leaves is the state with the response added (R109, R136). -/
theorem returnTranslation_eq (r : TranslateResult) (s : State) :
    returnTranslation r s = respond (.translate r) s := by
  cases r <;> rfl

/-- The three ways the six steps of R108 go. -/
theorem translationOf_cases (va : Word) (s : State) :
    (s.length.toNat ≤ (vpnOf s.vpnMask s.shift va).toNat ∧ translationOf va s = some (.fault .outOfRange)) ∨
    ((vpnOf s.vpnMask s.shift va).toNat < s.length.toNat ∧ s.pt[(vpnOf s.vpnMask s.shift va).toNat]? = none ∧
      translationOf va s = none) ∨
    (∃ pte, (vpnOf s.vpnMask s.shift va).toNat < s.length.toNat ∧
      s.pt[(vpnOf s.vpnMask s.shift va).toNat]? = some pte ∧
      translationOf va s = some (classifyEntry 12 s.shift (offsetOf s.offsetMask va) pte)) := by
  unfold translationOf
  by_cases h : s.length.toNat ≤ (vpnOf s.vpnMask s.shift va).toNat
  · exact .inl ⟨h, by simp [h]⟩
  · have hlt : (vpnOf s.vpnMask s.shift va).toNat < s.length.toNat := by omega
    cases hp : s.pt[(vpnOf s.vpnMask s.shift va).toNat]? with
    | none => exact .inr (.inl ⟨hlt, rfl, by simp [h, ptRead_of_lt hlt, hp]⟩)
    | some pte => exact .inr (.inr ⟨pte, hlt, rfl, by simp [h, ptRead_of_lt hlt, hp]⟩)

/-- The result depends on the block's state only. -/
theorem SameBlock.translationOf_eq {s t : State} (h : SameBlock s t) (va : Word) :
    translationOf va s = translationOf va t := by
  simp only [translationOf, ptRead, h.shift, h.offsetMask, h.vpnMask, h.length, h.pt, config_frameLsb]

/-- The result depends on the entries below `LENGTH` only (R53). -/
theorem translationOf_withTable {s : State} {m : Memory} (hm : ∀ i, i < s.length.toNat → m[i]? = s.pt[i]?)
    (va : Word) : translationOf va { s with pt := m } = translationOf va s := by
  have hr : ∀ i, ptRead { s with pt := m } i = ptRead s i := by
    intro i
    unfold ptRead
    split
    · exact hm i ‹_›
    · rfl
  simp only [translationOf, hr]

theorem execTranslate_of_ready {s : State} (h : s.lifecycle = .ready) (va : Word) :
    execTranslate va s = translateServed va s := by
  simp [execTranslate, h]

theorem execTranslate_refused {s : State} (h : s.lifecycle ≠ .ready) (va : Word) :
    execTranslate va s = .refused (.translateNotAdmitted s.lifecycle) := by
  unfold execTranslate
  cases hl : s.lifecycle <;> simp_all

theorem respond_translate_inj {s : State} {r r' : TranslateResult}
    (h : respond (.translate r) s = respond (.translate r') s) : r = r' := by
  simpa using congrArg State.responses h

/-- In `READY` TRANSLATE answers the response `r` exactly when the six steps give `r`. -/
theorem execTranslate_eq_respond_iff {s : State} (h : s.lifecycle = .ready) (va : Word) (r : TranslateResult) :
    execTranslate va s = .next (respond (.translate r) s) ↔ translationOf va s = some r := by
  rw [execTranslate_of_ready h, translateServed]
  cases translationOf va s with
  | none => simp
  | some r' =>
    simp only [returnTranslation_eq, Host.Outcome.next.injEq, Option.some.injEq]
    exact ⟨respond_translate_inj, fun e => by rw [e]⟩

/-- A TRANSLATE that answers a next state was served in `READY` and added the result as a response. -/
theorem execTranslate_eq_next {s t : State} {va : Word} (h : execTranslate va s = .next t) :
    s.lifecycle = .ready ∧ ∃ r, translationOf va s = some r ∧ t = respond (.translate r) s := by
  by_cases hr : s.lifecycle = .ready
  · rw [execTranslate_of_ready hr, translateServed] at h
    refine ⟨hr, ?_⟩
    cases hv : translationOf va s with
    | none => rw [hv] at h; cases h
    | some r =>
      rw [hv] at h
      cases h
      exact ⟨r, rfl, returnTranslation_eq r s⟩
  · rw [execTranslate_refused hr] at h
    cases h

/-! ### The three results of an entry -/

theorem classifyEntry_notValid {p : Pte} (h : p.getLsbD 0 = false) (lsb : Nat) (k : BitVec 4)
    (o : Word) :
    classifyEntry lsb k o p = .fault .notValid := by
  simp [classifyEntry, (pteNotValid_iff p).2 h]

theorem classifyEntry_notAccessible {p : Pte} (h0 : p.getLsbD 0 = true) (h1 : p.getLsbD 1 = false) (lsb : Nat)
    (k : BitVec 4) (o : Word) : classifyEntry lsb k o p = .fault .notAccessible := by
  have hv : pteNotValid p = false := by
    rw [← Bool.not_eq_true, pteNotValid_iff]; simp [h0]
  simp [classifyEntry, hv, (pteNotAccessible_iff p).2 ⟨h0, h1⟩]

theorem classifyEntry_success {p : Pte} (h0 : p.getLsbD 0 = true) (h1 : p.getLsbD 1 = true) (lsb : Nat)
    (k : BitVec 4) (o : Word) : classifyEntry lsb k o p = .success (physicalAddress k (pteFrame lsb p) o) := by
  have hv : pteNotValid p = false := by
    rw [← Bool.not_eq_true, pteNotValid_iff]; simp [h0]
  have ha : pteNotAccessible p = false := by
    rw [← Bool.not_eq_true, pteNotAccessible_iff]; simp [h1]
  simp [classifyEntry, hv, ha]

/-- The address of a success, as the pure function of R108 writes it. -/
theorem physicalAddress_eq_word32 {k : BitVec 4} (hk : k.toNat ≤ 12) (f : BitVec Config.frameBits) (va : Word) :
    physicalAddress k f (offsetOf (offsetMaskOf k.toNat) va) =
      word32 (f.toNat * 2 ^ k.toNat + va.toNat % 2 ^ k.toNat) := by
  have hb := pow_shift_bounds hk
  have ho : (offsetOf (offsetMaskOf k.toNat) va).toNat = va.toNat % 2 ^ k.toNat := offsetOf_toNat hk va
  have hlt : (offsetOf (offsetMaskOf k.toNat) va).toNat < 2 ^ k.toNat := by
    rw [ho]; exact Nat.mod_lt _ (by omega)
  apply BitVec.eq_of_toNat_eq
  have e := physicalAddress_toNat hk f hlt
  have hl := (physicalAddress k f (offsetOf (offsetMaskOf k.toNat) va)).isLt
  rw [e, ho] at hl
  rw [e, ho, BitVec.toNat_ofNat]
  exact (Nat.mod_eq_of_lt hl).symm

theorem Coherent.offsetMask {s : State} (h : Coherent s) : s.offsetMask = offsetMaskOf s.shift.toNat :=
  eq_offsetMaskOf h.shift_le h.offsetMask_eq

theorem Coherent.vpnMask {s : State} (h : Coherent s) : s.vpnMask = vpnMaskOf s.shift.toNat :=
  eq_vpnMaskOf h.shift_le h.vpnMask_eq

theorem Coherent.vpn_toNat {s : State} (h : Coherent s) (va : Word) :
    (vpnOf s.vpnMask s.shift va).toNat = va.toNat / 2 ^ s.shift.toNat := by
  rw [h.vpnMask, vpnOf_toNat h.shift_le]

/-- R39 speaks of the block's state and the capacity only. -/
theorem ReadyFacts.of_sameBlock {s t : State} (f : ReadyFacts s) (h : SameBlock s t) (hc : s.config = t.config) :
    ReadyFacts t := by
  obtain ⟨-, h2, h3, h4, h5, h6, h7, h8⟩ := h
  constructor <;> simp only [← h2, ← h3, ← h4, ← h5, ← h6, ← h7, ← h8, ← hc]
  exacts [f.asb_range, f.pageBytes_eq, f.shift_le, f.shift_le_asb, f.offsetMask_eq, f.vpnMask_eq, f.masks_disjoint,
    f.masks_cover, f.length_eq, f.length_range, f.pt_length, f.pt_seeded, f.pt_unmapped]

theorem ReadyFacts.coherent {s : State} (h : ReadyFacts s) : Coherent s :=
  ⟨h.shift_le, h.offsetMask_eq, h.vpnMask_eq, h.pt_length.ge⟩

end Sys2Proof.Machine
end

