-- ==== Sys2Proof/Laws/Step.lean ====
section
/-! SUPPORT. What a step can do, and runs. -/

namespace Sys2Proof.Machine

/-- If a step answers a next state, one of four things happened. -/
theorem step_cases {s t : State} (h : step s = .next t) :
    (s.input = [] ∧ t = s) ∨
    (∃ rest, s.input = .reset :: rest ∧ t = resetEvent { s with input := rest }) ∨
    (∃ q rest asb pb, s.input = .request q :: rest ∧ decode q = some (.build asb pb) ∧
      s.lifecycle = .unconfigured ∧ t = buildServed asb pb { s with input := rest }) ∨
    (∃ q rest va r, s.input = .request q :: rest ∧ decode q = some (.translate va) ∧ s.lifecycle = .ready ∧
      translationOf va { s with input := rest } = some r ∧ t = respond (.translate r) { s with input := rest }) := by
  unfold step at h
  split at h
  · rename_i hi
    cases h
    exact .inl ⟨(takeInput_eq_none_iff s).1 hi, rfl⟩
  · rename_i u hi
    obtain ⟨rest, hr, rfl⟩ := (takeInput_eq_some_iff s _ _).1 hi
    cases h
    exact .inr (.inl ⟨rest, hr, rfl⟩)
  · rename_i q u hi
    obtain ⟨rest, hr, rfl⟩ := (takeInput_eq_some_iff s _ _).1 hi
    split at h
    · rename_i i hd
      cases i with
      | build asb pb =>
        obtain ⟨hl, rfl⟩ := execBuild_eq_next h
        exact .inr (.inr (.inl ⟨q, rest, asb, pb, hr, hd, hl, rfl⟩))
      | translate va =>
        obtain ⟨hl, r, hv, rfl⟩ := execTranslate_eq_next h
        exact .inr (.inr (.inr ⟨q, rest, va, r, hr, hd, hl, hv, rfl⟩))
    · cases h

theorem step_of_request {s : State} {q : RequestWord} {rest : List Input} {i : Instr}
    (hi : s.input = .request q :: rest) (hd : decode q = some i) : step s = exec i { s with input := rest } := by
  have h := (takeInput_eq_some_iff s (.request q) { s with input := rest }).2 ⟨rest, hi, rfl⟩
  simp only [step, h, hd]

theorem step_of_undecodable {s : State} {q : RequestWord} {rest : List Input}
    (hi : s.input = .request q :: rest) (hd : decode q = none) : step s = .refused (.undecodable q) := by
  have h := (takeInput_eq_some_iff s (.request q) { s with input := rest }).2 ⟨rest, hi, rfl⟩
  simp only [step, h, hd]

theorem step_of_reset {s : State} {rest : List Input} (hi : s.input = .reset :: rest) :
    step s = .next (resetEvent { s with input := rest }) := by
  have h := (takeInput_eq_some_iff s .reset { s with input := rest }).2 ⟨rest, hi, rfl⟩
  simp only [step, h]

theorem step_of_idle {s : State} (hi : s.input = []) : step s = .next s := by
  have h := (takeInput_eq_none_iff s).2 hi
  simp only [step, h, idle]

/-! ### Runs -/

theorem runsTo_zero {s t : State} : RunsTo 0 s t ↔ s = t := Iff.rfl

theorem runsTo_succ {k : Nat} {s t : State} : RunsTo (k + 1) s t ↔ ∃ u, step s = .next u ∧ RunsTo k u t := Iff.rfl

/-- `RunsTo` is the host's own run of the machine. -/
theorem runsTo_iff_core_run (k : Nat) (s t : Sys2Proof.core.State) :
    RunsTo k s t ↔ Host.Core.run Sys2Proof.core k s = .next t := by
  induction k generalizing s with
  | zero => exact ⟨fun h => congrArg _ h, fun h => Host.Outcome.next.inj h⟩
  | succ k ih =>
    simp only [Host.Core.run]
    constructor
    · rintro ⟨u, hu, h⟩
      have hs : Sys2Proof.core.step s = .next u := hu
      rw [hs]
      exact (ih u).1 h
    · intro h
      split at h
      · rename_i u hu
        exact ⟨u, hu, (ih u).2 h⟩
      · cases h
      · cases h

/-- What every step keeps, every run keeps. -/
theorem RunsTo.keeps {P : State → Prop} (hstep : ∀ s t, P s → step s = .next t → P t) {k : Nat} {s t : State}
    (h : RunsTo k s t) (hs : P s) : P t := by
  induction k generalizing s with
  | zero => exact (h : s = t) ▸ hs
  | succ k ih =>
    obtain ⟨u, hu, hr⟩ := h
    exact ih hr (hstep s u hs hu)

end Sys2Proof.Machine
end

