-- ==== Sys2Proof/Tests/Slice0.lean ====
section
/-! SUPPORT. Checks of the model against the spec's own words and vectors, and a state that meets the hypotheses of
each statement.  Expected values come from 95_test_vectors.md, or from the rule named beside them. -/

namespace Sys2Proof.Tests

open Sys2Proof.Machine

/-! ### Ill-formed operations -/

theorem test_wf_build : (Instr.build 63 8191).wf = true := by decide
theorem test_asb_64_does_not_fit : (Instr.build 64 4096).wf = false := by decide
theorem test_pb_8192_does_not_fit : (Instr.build 32 8192).wf = false := by decide

/-! ### Decoding, words bit by bit from R60 (section 2.3 of the vectors) -/

theorem test_decode_build : decode 0b00_0000000000000_1000000000000_100000#34 = some (.build 32 4096) := by decide
theorem test_decode_build_all_operand_bits :
    decode 0b00_0000000000000_1111111111111_111111#34 = some (.build 63 8191) := by decide
theorem test_decode_translate :
    decode 0b01_00000000000000000010000000000000#34 = some (.translate 0x00002000) := by decide
theorem test_decode_translate_all_ones :
    decode 0b01_11111111111111111111111111111111#34 = some (.translate 0xFFFFFFFF) := by decide
theorem test_decode_rsv_bit_19 : decode 0x000080000#34 = none := by decide
theorem test_decode_op_2 : decode 0x200000000#34 = none := by decide
theorem test_decode_op_3 : decode 0x300002000#34 = none := by decide
theorem test_table_word : decodeTableWord 40 0x100000000 = some (.translate 0) := by decide
theorem test_table_word_beyond_34_bits : decodeTableWord 40 0x400000000 = none := by decide

/-! ### Small states -/

/-- Right after reset, with another `PT_CAPACITY`. -/
def withCapacity (n : { n : Nat // 1 ≤ n ∧ n ≤ 2 ^ 20 }) : State :=
  { State.reset with config := { ptCapacity := n } }

/-- The state R39 and R88 give after `BUILD 10, 256`, written out by hand: four pages of 256 bytes. -/
def fourPages : State :=
  { State.reset with
    lifecycle := .ready, asb := 10, pageBytes := 256, shift := 8, offsetMask := 0x000000FF, vpnMask := 0xFFFFFF00
    length := 4, pt := [0x00000001, 0x00002003, 0x00000000, 0x00000000] }

/-- After a fatal build error (R90). -/
def haltedState : State := { State.reset with lifecycle := .halted }

/-! ### BUILD and TRANSLATE, one step each -/

theorem test_build_is_the_hand_written_state :
    exec (.build 10 256) State.reset = .next (respond (.build .buildOk) fourPages) := by rfl

theorem test_build_256_entries_exceed_capacity_255 :
    exec (.build 16 256) (withCapacity ⟨255, by decide⟩) =
      .next { withCapacity ⟨255, by decide⟩ with
        lifecycle := .halted, responses := [.build (.error .resourceExhaustion)] } := by rfl

theorem test_translate_shifts_frame_by_shift :
    exec (.translate 0x00000123) fourPages = .next (respond (.translate (.success 0x00000223)) fourPages) := by rfl

theorem test_translate_upper_bits_are_not_aliased :
    exec (.translate 0x80000123) fourPages = .next (respond (.translate (.fault .outOfRange)) fourPages) := by rfl

/-! ### The pure function on hand-made entries (section 2.5): reserved bits, bit 0 alone, a shift of 4 -/

theorem test_pure_function_on_hand_made_entries :
    translatePure [0, 0, 0xDEADBFFB] 3 12 0x00002ABC = some (.success 0xDEADBABC) ∧
      translatePure [0, 0, 0xFFFFFFFE] 3 12 0x00002ABC = some (.fault .notValid) ∧
      translatePure [0, 0, 0xFFFFFFFF] 3 4 0x0000002A = some (.success 0x00FFFFFA) := by decide

/-! ### Response words (program 1 of the vectors) and scripts (R71) -/

theorem test_response_word_success : responseWord 0 (.translate (.success 0x00002000)) = 0x000002000#35 := by decide
theorem test_response_word_fault :
    (responseWord 0 (.translate (.fault .notAccessible))).extractLsb' 32 3 = 2 := by decide

theorem test_script_line :
    readScript ['B', 'U', 'I', 'L', 'D', ' ', '1', '6', ',', ' ', '2', '5', '6', ' ', ';', ' ', 'x', '\n', '\n',
      'T', 'R', 'A', 'N', 'S', 'L', 'A', 'T', 'E', ' ', '0', 'x', '1', 'F', '\n'] =
      some [.build 16 256, .translate 0x0000001F] := by decide
theorem test_script_operand_out_of_range :
    readScript ['B', 'U', 'I', 'L', 'D', ' ', '6', '4', ',', ' ', '1'] = none := by decide

/-! ### States that meet the hypotheses of the statements -/

theorem fourPages_facts : ReadyFacts fourPages := by
  have e : commitTable 10 (2 ^ 8) 8 State.reset = fourPages := by rfl
  rw [← e]
  exact readyFacts_commitTable (by decide) (by decide) (by decide) (by decide) (by decide)

theorem fourPages_inv : Inv fourPages := ⟨by decide, by decide, fun _ => fourPages_facts⟩

/-- After `BUILD 32, 4096`, the largest table. -/
def largestTable : State := commitTable 32 4096 12 State.reset

theorem largestTable_facts : ReadyFacts largestTable :=
  readyFacts_commitTable (s := State.reset) (asb := 32) (k := 12) (by decide) (by decide) (by decide) (by decide)
    (by decide)

theorem witness_ReservedWordsAreRefusedInEveryState :
    ((0x200000000#34).extractLsb' 32 2 = 0b10#2 ∧ (0x300000000#34).extractLsb' 32 2 = 0b11#2 ∧
      ((0x000080000#34).extractLsb' 32 2 = 0b00#2 ∧ (0x000080000#34).extractLsb' 19 13 ≠ 0#13)) ∧
    ∀ q, ({ fourPages with input := [.request q] } : State).input = .request q :: [] :=
  ⟨by decide, fun _ => rfl⟩

/-- The hypotheses of BuildCommitsRegisters, BuildSeedsTable and BuildTableIsWhatTheLoopsWrite, at the ends of the
ranges: `(asb, k)` with the table as long as the storage, of length 1, and with the smallest operands. -/
theorem witness_BuildCommitsRegisters_and_tables :
    (∀ x ∈ [(32, 12), (24, 4), (12, 12), (1, 1), (1, 0), (16, 8)], State.reset.lifecycle = .unconfigured ∧
      1 ≤ x.1 ∧ x.1 ≤ 32 ∧ x.2 ≤ 12 ∧ x.2 ≤ x.1 ∧ 2 ^ (x.1 - x.2) ≤ State.reset.config.ptCapacity.val) ∧
    (List.replicate 2 0xFFFFFFFF#32 : Memory).length = 2 ^ (1 - 0) ∧ 8 < 2 ^ (16 - 8) / 2 :=
  ⟨by decide, by decide, by decide⟩

theorem witness_BuiltTableProperties :
    exec (.build 10 256) State.reset = .next (respond (.build .buildOk) fourPages) ∧
      (respond (.build .buildOk) fourPages).responses = State.reset.responses ++ [.build .buildOk] :=
  ⟨rfl, rfl⟩

/-- A result of each kind. -/
theorem witness_BuildFrame :
    exec (.build 10 256) State.reset = .next (respond (.build .buildOk) fourPages) ∧
      exec (.build 0 256) State.reset =
        .next { haltedState with responses := [.build (.error .configurationError)] } ∧
      haltedState.lifecycle ≠ .ready :=
  ⟨rfl, rfl, by decide⟩

/-- Each of the six conditions, at its boundary. -/
theorem witness_BuildConfigurationErrors :
    State.reset.lifecycle = .unconfigured ∧ 0 < 1 ∧ 32 < 33 ∧ 4096 < 4097 ∧ (¬∃ k, 2 ^ k = 3) ∧
      ∃ k, 2 ^ k = 4 ∧ 1 < k := by
  refine ⟨rfl, by decide, by decide, by decide, ?_, 2, by decide, by decide⟩
  rintro ⟨k, hk⟩
  rcases k with _ | _ | k
  · simp at hk
  · simp at hk
  · have : 2 ^ 2 ≤ 2 ^ (k + 2) := Nat.pow_le_pow_right (by decide) (by omega)
    omega

/-- BuildResourceExhaustion and ParametersTakeTheValuesOfTheRule, on both sides of the capacity. -/
theorem witness_BuildResourceExhaustion :
    State.reset.lifecycle = .unconfigured ∧ State.reset.config.ptCapacity.val < 2 ^ (32 - 11) ∧
      2 ^ (32 - 12) ≤ State.reset.config.ptCapacity.val ∧ 1 ≤ 32 ∧ 11 ≤ 12 ∧
      (withCapacity ⟨1, by decide⟩).config.ptCapacity.val < 2 ^ (1 - 0) := by decide

/-- BuildHasExactlyOneResult, BuildServedOnlyWhenUnconfigured, LengthNeverWraps: both cases of the admission. -/
theorem witness_BuildServedOnlyWhenUnconfigured :
    State.reset.lifecycle = .unconfigured ∧ fourPages.lifecycle ≠ .unconfigured ∧
      haltedState.lifecycle ≠ .unconfigured := by decide

theorem witness_BuildWorkedExample :
    State.reset.lifecycle = .unconfigured ∧ State.reset.config.ptCapacity.val = 2 ^ 20 ∧
      ({ State.reset with input := [.request 0x000040020#34] } : State).input = [.request 0x000040020#34] :=
  ⟨rfl, rfl, rfl⟩

/-- TranslateIsThePureFunction, TranslateClassification, TranslateServedOnlyWhenReady, MaskThenShiftIsTheQuotient:
a coherent `READY` state, and each row of the table in it. -/
theorem witness_TranslateClassification :
    fourPages.lifecycle = .ready ∧ Coherent fourPages ∧ State.reset.lifecycle ≠ .ready ∧
      fourPages.length.toNat ≤ (0x400#32).toNat / 2 ^ fourPages.shift.toNat ∧
      (fourPages.pt[(0x3FF#32).toNat / 2 ^ fourPages.shift.toNat]? = some 0 ∧ (0#32).getLsbD 0 = false) ∧
      (fourPages.pt[(0x0FF#32).toNat / 2 ^ fourPages.shift.toNat]? = some 1 ∧ (1#32).getLsbD 1 = false) ∧
      (fourPages.pt[(0x100#32).toNat / 2 ^ fourPages.shift.toNat]? = some 0x2003 ∧ (0x2003#32).getLsbD 1 = true) :=
  ⟨rfl, fourPages_facts.coherent, by decide, by decide, by decide, by decide, by decide⟩

theorem witness_SuccessfulAddressShape :
    fourPages.lifecycle = .ready ∧ Coherent fourPages ∧
      (0x1FF#32).toNat / 2 ^ fourPages.shift.toNat < fourPages.length.toNat ∧
      fourPages.pt[(0x1FF#32).toNat / 2 ^ fourPages.shift.toNat]? = some 0x2003#32 ∧
      (0x2003#32).getLsbD 0 = true ∧ (0x2003#32).getLsbD 1 = true :=
  ⟨rfl, fourPages_facts.coherent, by decide, by decide, by decide, by decide⟩

/-- OutOfRangeIsBeyondTheAddressSpace and TranslateWorkedExamples. -/
theorem witness_TranslateWorkedExamples :
    largestTable.lifecycle = .ready ∧ ReadyFacts largestTable ∧ largestTable.asb = 32 ∧ largestTable.shift = 12 :=
  ⟨rfl, largestTable_facts, rfl, rfl⟩

/-- Another table: the same constants, another `ASB`, and reserved bits set in the entry. -/
def fourOtherPages : State :=
  { fourPages with asb := 0, pageBytes := 0, pt := [0xFFFFFFFF, 0x00002FFF, 0x00000002, 0x00000003] }

theorem witness_ResultDependsOnTheTestedBitsOnly :
    fourOtherPages.lifecycle = .ready ∧ Coherent fourPages ∧ Coherent fourOtherPages ∧
      fourOtherPages.shift = fourPages.shift ∧ fourOtherPages.length = fourPages.length ∧
      fourPages.pt[(0x123#32).toNat / 2 ^ fourPages.shift.toNat]? = some 0x2003#32 ∧
      fourOtherPages.pt[(0x123#32).toNat / 2 ^ fourPages.shift.toNat]? = some 0x2FFF#32 ∧
      (0x2003#32).getLsbD 0 = (0x2FFF#32).getLsbD 0 ∧ (0x2003#32).getLsbD 1 = (0x2FFF#32).getLsbD 1 ∧
      (0x2003#32).extractLsb' 12 20 = (0x2FFF#32).extractLsb' 12 20 ∧
      exec (.translate 0x123) fourPages = .next (respond (.translate (.success 0x223)) fourPages) :=
  ⟨rfl, fourPages_facts.coherent, ⟨by decide, by decide, by decide, by decide⟩, rfl, rfl, by decide, by decide,
    by decide, by decide, by decide, rfl⟩

/-- The two other classes of R117: an entry that is not valid, one that is not accessible. -/
theorem witness_ResultDependsOnTheTestedBitsOnly_faults :
    ((0x00000002#32).getLsbD 0 = (0xFFFFFFFE#32).getLsbD 0 ∧ (0x00000002#32).getLsbD 0 = false) ∧
    ((0x00000001#32).getLsbD 0 = (0xFFFFFFFD#32).getLsbD 0 ∧ (0x00000001#32).getLsbD 1 = (0xFFFFFFFD#32).getLsbD 1 ∧
      (0x00000001#32).getLsbD 1 = false) := by decide

theorem witness_EntriesBeyondLengthNeverMatter :
    (∀ i, i < fourPages.length.toNat → (fourPages.pt ++ [0xFFFFFFFF#32])[i]? = fourPages.pt[i]?) ∧
      exec (.translate 0x123) fourPages = .next (respond (.translate (.success 0x223)) fourPages) :=
  ⟨fun i hi => List.getElem?_append_left (by exact hi), rfl⟩

/-- TranslateWritesNoState and AfterAFaultTheNextRequestIsServed, for each fault. -/
theorem witness_AfterAFaultTheNextRequestIsServed :
    Coherent fourPages ∧
      exec (.translate 0x000) fourPages = .next (respond (.translate (.fault .notAccessible)) fourPages) ∧
      exec (.translate 0x200) fourPages = .next (respond (.translate (.fault .notValid)) fourPages) ∧
      exec (.translate 0x400) fourPages = .next (respond (.translate (.fault .outOfRange)) fourPages) :=
  ⟨fourPages_facts.coherent, rfl, rfl, rfl⟩

/-- Each of the four cases of R93 at its boundary. -/
theorem witness_FreshTableTranslations :
    fourPages.lifecycle = .ready ∧ ReadyFacts fourPages ∧ 2 ^ fourPages.asb.toNat ≤ (0x400#32).toNat ∧
      ((0x3FF#32).toNat < 2 ^ fourPages.asb.toNat ∧
        fourPages.length.toNat / 2 ≤ (0x200#32).toNat / 2 ^ fourPages.shift.toNat) ∧
      ((0x0FF#32).toNat / 2 ^ fourPages.shift.toNat < fourPages.length.toNat / 2 ∧
        (0x0FF#32).toNat / 2 ^ fourPages.shift.toNat % 4 = 0) ∧
      ((0x1FF#32).toNat / 2 ^ fourPages.shift.toNat < fourPages.length.toNat / 2 ∧
        (0x1FF#32).toNat / 2 ^ fourPages.shift.toNat % 4 ≠ 0) :=
  ⟨rfl, fourPages_facts, by decide, by decide, by decide, by decide⟩

theorem witness_ReadAfterWriteOfTheTable :
    3 < fourPages.length.toNat ∧ 3 < fourPages.pt.length ∧ (0 : Nat) ≠ 3 := by decide

/-- StepServesTheDecodedRequest, OneResponsePerServedRequest and AdmissionTable, for both operations. -/
theorem witness_StepServesTheDecodedRequest :
    decode 0x000004010#34 = some (.build 16 256) ∧ decode 0x100000123#34 = some (.translate 0x123) ∧
      decodeTableWord 40 0x000004010 = some (.build 16 256) ∧
      Inv { State.reset with input := [.request 0x000004010#34] } ∧
      Inv { fourPages with input := [.request 0x100000123#34] } ∧
      Inv { fourPages with input := [.request 0x000004010#34] } :=
  ⟨by decide, by decide, by decide, ⟨by decide, by decide, fun h => by cases h⟩,
    ⟨by decide, by decide, fun _ => fourPages_facts.of_sameBlock ⟨rfl, rfl, rfl, rfl, rfl, rfl, rfl, rfl⟩ rfl⟩,
    ⟨by decide, by decide, fun _ => fourPages_facts.of_sameBlock ⟨rfl, rfl, rfl, rfl, rfl, rfl, rfl, rfl⟩ rfl⟩⟩

theorem witness_OneResponsePerServedRequest :
    (∃ t, step { State.reset with input := [.request 0x000004010#34] } = .next t) ∧
      (∃ t, step { fourPages with input := [.request 0x100000123#34] } = .next t) ∧
      (∃ t, step { fourPages with input := [.reset] } = .next t) ∧ ∃ t, step fourPages = .next t :=
  ⟨⟨_, rfl⟩, ⟨_, rfl⟩, ⟨_, rfl⟩, ⟨_, rfl⟩⟩

theorem witness_IdleStepChangesNothing : fourPages.input = [] := rfl

theorem witness_ResetEventUnconfigures :
    ({ haltedState with input := [.reset, .request 0x000004010#34] } : State).input =
      .reset :: [.request 0x000004010#34] := rfl

/-- Two states the requester cannot tell apart that differ in registers, table and the counter of free values. -/
theorem witness_UnspecifiedValuesAreNeverObserved :
    Indistinguishable { State.reset with input := [.request 0x000000041#34] }
      { State.reset with
        asb := 7, offsetMask := 0xFFFFFFFF, pt := [5], draws := 6, input := [.request 0x000000041#34] } ∧
      ∃ t, RunsTo 1 { State.reset with input := [.request 0x000000041#34] } t :=
  ⟨⟨rfl, rfl, rfl, rfl, fun h => by cases h⟩, _, _, rfl, rfl⟩

/-- EveryStepKeepsTheInvariant and NoStepFaultsUnderTheInvariant: an idle step, a reset event. -/
theorem witness_EveryStepKeepsTheInvariant :
    Inv fourPages ∧ step fourPages = .next fourPages ∧ Inv State.reset :=
  ⟨fourPages_inv, rfl, ⟨by decide, by decide, fun h => by cases h⟩⟩

theorem witness_HaltedIsLeftByResetOnly :
    haltedState.lifecycle = .halted ∧ step haltedState = .next haltedState ∧
      ∃ t, step { haltedState with input := [.reset] } = .next t :=
  ⟨rfl, rfl, _, rfl⟩

/-- LifecycleTransitions and ParametersNeverChange: each of the three changes. -/
theorem witness_LifecycleTransitions :
    (∃ t, step { haltedState with input := [.reset] } = .next t ∧ t.lifecycle ≠ haltedState.lifecycle) ∧
      (∃ t, step { State.reset with input := [.request 0x000000041#34] } = .next t ∧ t.lifecycle = .ready) ∧
      (∃ t, step { State.reset with input := [.request 0x0000000E0#34] } = .next t ∧ t.lifecycle = .halted) :=
  ⟨⟨_, rfl, by decide⟩, ⟨_, rfl, rfl⟩, ⟨_, rfl, rfl⟩⟩

/-- ReadyBlockIsImmutable and TranslationIsIdempotentAcrossARun: two translations, no reset event. -/
theorem witness_TranslationIsIdempotentAcrossARun :
    WithinOneRun 2 { fourPages with input := [.request 0x100000123#34, .request 0x100000400#34] } ∧
      (∃ t, RunsTo 2 { fourPages with input := [.request 0x100000123#34, .request 0x100000400#34] } t) ∧
      execTranslate 0x123 fourPages = .next (respond (.translate (.success 0x223)) fourPages) :=
  ⟨by unfold WithinOneRun; decide, ⟨_, _, rfl, _, rfl, rfl⟩, rfl⟩

/-- GoodRunsEndReadyOrUnconfigured: both ends. -/
theorem witness_GoodRunsEndReadyOrUnconfigured :
    GoodRun 1 { State.reset with input := [.request 0x000000041#34] } ∧ GoodRun 1 State.reset :=
  ⟨⟨by unfold WithinOneRun; decide, _, ⟨_, rfl, rfl⟩, by decide⟩,
    ⟨by unfold WithinOneRun; decide, _, ⟨_, rfl, rfl⟩, by decide⟩⟩

end Sys2Proof.Tests
end

/-! ## Scope: the response word, the decoded request, the parameters of the block (00_scope.md) -/

namespace Sys2Proof.Machine

/-! ### The requester's reading of a response word (R66 to R68) -/

theorem readResponse_build_responseWord (free : Word) (asb pb : Nat) (r : BuildResult) :
    readResponse (.build asb pb) (responseWord free (.build r)) = some (.build r) := by
  simp only [readResponse, responseWord_status]
  cases r with
  | buildOk => simp [statusOf]
  | error e => cases e <;> simp [statusOf]

theorem readResponse_translate_responseWord (free va : Word) (r : TranslateResult) :
    readResponse (.translate va) (responseWord free (.translate r)) = some (.translate r) := by
  simp only [readResponse, responseWord_status, responseWord_pa]
  cases r with
  | success pa => simp [statusOf, paBitsOf]
  | fault k => cases k <;> simp [statusOf]

/-- Settles O8: the status code and the `pa` bits are the two fields of the word, and within one operation the codes
of R67 tell the results apart. -/
theorem responseWordReadsBack : Obligations.ResponseWordReadsBack :=
  ⟨readResponse_build_responseWord, readResponse_translate_responseWord⟩

/-! ### A word of the opcode table as the next request (R64, R164) -/

/-- A table word that decodes is a request word, offered as the next event. -/
theorem withFetchWord_of_decodeTableWord {nbits w : Nat} {i : Instr} (h : decodeTableWord nbits w = some i)
    (s : State) : ∃ q, decode q = some i ∧ s.withFetchWord nbits w = offerInput (.request q) s := by
  obtain ⟨q, hq, hd⟩ := Option.bind_eq_some_iff.1 h
  have hw : tableWord s.config.requestBits.val nbits w = some q := by rw [config_requestBits]; exact hq
  exact ⟨q, hd, by simp only [State.withFetchWord, offerTableWord, hw]⟩

/-- Settles O33: a decoded request is run by `exec`, and taking the offered table word leaves the state as it was. -/
theorem stepServesTheDecodedRequest : Obligations.StepServesTheDecodedRequest := by
  intro s i
  refine ⟨fun q rest hi hd => step_of_request hi hd, fun nbits w h => ?_⟩
  obtain ⟨q, hd, hs⟩ := withFetchWord_of_decodeTableWord h s
  rw [hs]
  exact step_of_request (offerInput_input s (.request q)) hd

/-! ### The parameters (R7) -/

@[simp] theorem buildServed_config (asb pb : Nat) (s : State) : (buildServed asb pb s).config = s.config := by
  obtain ⟨-, h⟩ | ⟨k, -, -, h⟩ | ⟨k, -, -, h⟩ := buildServed_cases asb pb s <;> simp [h]

/-- Settles O48, by the four things a step can do. -/
theorem parametersNeverChange : Obligations.ParametersNeverChange := by
  intro s t h
  obtain ⟨-, rfl⟩ | ⟨rest, -, rfl⟩ | ⟨q, rest, asb, pb, -, -, -, rfl⟩ | ⟨q, rest, va, r, -, -, -, -, rfl⟩ := step_cases h
  case inl => rfl
  case inr.inl => exact resetEvent_config _
  case inr.inr.inl => exact buildServed_config asb pb _
  case inr.inr.inr => exact respond_config _ _

theorem exists_config_ptCapacity_iff (n : Nat) : (∃ c : Config, c.ptCapacity.val = n) ↔ 1 ≤ n ∧ n ≤ 2 ^ 20 := by
  constructor
  · rintro ⟨c, rfl⟩
    exact config_ptCapacity_range c
  · intro hn
    exact ⟨{ ptCapacity := ⟨n, hn⟩ }, rfl⟩

/-- A legal pair whose table is longer than the storage (R85). -/
theorem buildServed_of_capacity_lt {s : State} {asb pb k : Nat} (hk : checkConfig asb pb = some k)
    (hc : s.config.ptCapacity.val < tableLength asb k) :
    buildServed asb pb s = haltWith .resourceExhaustion s := by
  simp [buildServed, hk, hc]

/-- Settles O49: the values are those the fields of `Config` admit, and a longer table fails the check of R85. -/
theorem parametersTakeTheValuesOfTheRule : Obligations.ParametersTakeTheValuesOfTheRule := by
  refine ⟨exists_config_ptCapacity_iff, rfl,
    fun s => ⟨config_frameLsb _, config_requestBits _, config_responseBits _⟩, ?_⟩
  intro s asb k hl h1 h2 hk hka hc
  have hcheck : checkConfig asb (2 ^ k) = some k := (checkConfig_eq_some_iff _ _ _).2 ⟨⟨h1, h2⟩, hk, rfl, hka⟩
  have hserved : buildServed asb (2 ^ k) s = haltWith .resourceExhaustion s := buildServed_of_capacity_lt hcheck hc
  refine ⟨haltWith .resourceExhaustion s, ?_, haltWith_responses s _⟩
  calc exec (.build asb (2 ^ k)) s = execBuild asb (2 ^ k) s := rfl
    _ = .next (buildServed asb (2 ^ k) s) := execBuild_of_unconfigured hl asb (2 ^ k)
    _ = .next (haltWith .resourceExhaustion s) := by rw [hserved]

end Sys2Proof.Machine

/-! ## The state: what every step keeps, and what cannot be seen of it (10_state.md) -/

namespace Sys2Proof.Machine

/-! ### The block's state as an equivalence -/

theorem SameBlock.symm {s t : State} (h : SameBlock s t) : SameBlock t s :=
  ⟨h.lifecycle.symm, h.asb.symm, h.pageBytes.symm, h.shift.symm, h.offsetMask.symm, h.vpnMask.symm, h.length.symm,
    h.pt.symm⟩

theorem sameBlock_withInput (s : State) (rest : List Input) : SameBlock s { s with input := rest } :=
  ⟨rfl, rfl, rfl, rfl, rfl, rfl, rfl, rfl⟩

/-! ### What a served BUILD leaves, by its two checks (R82, R85) -/

theorem buildServed_of_checkConfig_none {asb pb : Nat} (h : checkConfig asb pb = none) (s : State) :
    buildServed asb pb s = haltWith .configurationError s := by
  simp [buildServed, h]

theorem buildServed_of_le_capacity {s : State} {asb pb k : Nat} (hk : checkConfig asb pb = some k)
    (hc : tableLength asb k ≤ s.config.ptCapacity.val) :
    buildServed asb pb s = respond (.build .buildOk) (commitTable asb pb k s) := by
  simp [buildServed, hk, Nat.not_lt.2 hc]

@[simp] theorem buildServed_input (asb pb : Nat) (s : State) : (buildServed asb pb s).input = s.input := by
  obtain ⟨-, h⟩ | ⟨k, -, -, h⟩ | ⟨k, -, -, h⟩ := buildServed_cases asb pb s <;> simp [h]

/-- The two ways a served BUILD ends (R89, R90): `READY` with `BuildOk`, or `HALTED` with an error. -/
theorem buildServed_lifecycle_cases (asb pb : Nat) (s : State) :
    ((buildServed asb pb s).lifecycle = .ready ∧
      (buildServed asb pb s).responses = s.responses ++ [.build .buildOk]) ∨
    ((buildServed asb pb s).lifecycle = .halted ∧
      ∃ e, (buildServed asb pb s).responses = s.responses ++ [.build (.error e)]) := by
  obtain ⟨-, h⟩ | ⟨k, -, -, h⟩ | ⟨k, -, -, h⟩ := buildServed_cases asb pb s
  case inl => exact .inr ⟨by rw [h, haltWith_lifecycle], .configurationError, by rw [h, haltWith_responses]⟩
  case inr.inl => exact .inr ⟨by rw [h, haltWith_lifecycle], .resourceExhaustion, by rw [h, haltWith_responses]⟩
  case inr.inr => exact .inl ⟨by simp [h], by simp [h]⟩

/-! ### Requests that are served -/

theorem exec_build (asb pb : Nat) (s : State) : exec (.build asb pb) s = execBuild asb pb s := rfl

theorem exec_translate (va : Word) (s : State) : exec (.translate va) s = execTranslate va s := rfl

theorem step_of_build {s : State} {q : RequestWord} {rest : List Input} {asb pb : Nat}
    (hi : s.input = .request q :: rest) (hd : decode q = some (.build asb pb)) (hl : s.lifecycle = .unconfigured) :
    step s = .next (buildServed asb pb { s with input := rest }) := by
  rw [step_of_request hi hd, exec_build]
  exact execBuild_of_unconfigured (s := { s with input := rest }) hl asb pb

theorem step_of_translate {s : State} {q : RequestWord} {rest : List Input} {va : Word} {r : TranslateResult}
    (hi : s.input = .request q :: rest) (hd : decode q = some (.translate va)) (hl : s.lifecycle = .ready)
    (hr : translationOf va { s with input := rest } = some r) :
    step s = .next (respond (.translate r) { s with input := rest }) := by
  rw [step_of_request hi hd, exec_translate]
  exact (execTranslate_eq_respond_iff (s := { s with input := rest }) hl va r).2 hr

/-! ### Unspecified values are not observed (R38)

`Indistinguishable` is a simulation: each operation answers states that agree on what the requester sees, and BUILD
overwrites the whole block before `READY` is reached. -/

namespace Indistinguishable

variable {s s' : State}

theorem withInput (h : Indistinguishable s s') (rest : List Input) :
    Indistinguishable { s with input := rest } { s' with input := rest } where
  lifecycle := h.lifecycle
  config := h.config
  input := rfl
  responses := h.responses
  block hl := (sameBlock_withInput s rest).symm.trans ((h.block hl).trans (sameBlock_withInput s' rest))

theorem respond (h : Indistinguishable s s') (r : Response) : Indistinguishable (respond r s) (respond r s') where
  lifecycle := h.lifecycle
  config := h.config
  input := h.input
  responses := congrArg (· ++ [r]) h.responses
  block hl := (sameBlock_respond s r).symm.trans ((h.block hl).trans (sameBlock_respond s' r))

theorem haltWith (h : Indistinguishable s s') (e : BuildError) :
    Indistinguishable (haltWith e s) (haltWith e s') where
  lifecycle := rfl
  config := h.config
  input := h.input
  responses := congrArg (· ++ [Response.build (.error e)]) h.responses
  block hl := by cases hl

theorem resetEvent (h : Indistinguishable s s') : Indistinguishable (resetEvent s) (resetEvent s') where
  lifecycle := rfl
  config := h.config
  input := h.input
  responses := h.responses
  block hl := by cases hl

/-- The committed block is computed from the operands and the parameters alone (R86 to R88). -/
theorem commitTable (h : Indistinguishable s s') (asb pb k : Nat) :
    Indistinguishable (commitTable asb pb k s) (commitTable asb pb k s') where
  lifecycle := rfl
  config := h.config
  input := h.input
  responses := h.responses
  block _ := ⟨rfl, rfl, rfl, rfl, rfl, rfl, rfl, by rw [commitTable_pt, commitTable_pt, h.config]⟩

/-- Both checks of BUILD read the operands and the parameters only, so both blocks take the same branch. -/
theorem buildServed (h : Indistinguishable s s') (asb pb : Nat) :
    Indistinguishable (buildServed asb pb s) (buildServed asb pb s') := by
  obtain ⟨hk, hs⟩ | ⟨k, hk, hc, hs⟩ | ⟨k, hk, hc, hs⟩ := buildServed_cases asb pb s
  case inl => rw [hs, buildServed_of_checkConfig_none hk]; exact h.haltWith _
  case inr.inl => rw [hs, buildServed_of_capacity_lt hk (h.config ▸ hc)]; exact h.haltWith _
  case inr.inr => rw [hs, buildServed_of_le_capacity hk (h.config ▸ hc)]; exact (h.commitTable asb pb k).respond _

theorem step (h : Indistinguishable s s') {t : State} (hs : step s = .next t) :
    ∃ t', Machine.step s' = .next t' ∧ Indistinguishable t t' := by
  obtain ⟨hi, rfl⟩ | ⟨rest, hi, rfl⟩ | ⟨q, rest, asb, pb, hi, hd, hl, rfl⟩ | ⟨q, rest, va, r, hi, hd, hl, hr, rfl⟩ :=
    step_cases hs
  case inl => exact ⟨s', step_of_idle (h.input ▸ hi), h⟩
  case inr.inl => exact ⟨_, step_of_reset (h.input ▸ hi), (h.withInput rest).resetEvent⟩
  case inr.inr.inl =>
    exact ⟨_, step_of_build (h.input ▸ hi) hd (h.lifecycle ▸ hl), (h.withInput rest).buildServed asb pb⟩
  case inr.inr.inr =>
    have hr' : translationOf va { s' with input := rest } = some r :=
      (((h.withInput rest).block hl).translationOf_eq va).symm.trans hr
    exact ⟨_, step_of_translate (h.input ▸ hi) hd (h.lifecycle ▸ hl) hr', (h.withInput rest).respond _⟩

theorem runsTo {k : Nat} (h : Indistinguishable s s') {t : State} (hs : RunsTo k s t) :
    ∃ t', RunsTo k s' t' ∧ Indistinguishable t t' := by
  induction k generalizing s s' with
  | zero => exact ⟨s', rfl, (hs : s = t) ▸ h⟩
  | succ k ih =>
    obtain ⟨u, hu, hrun⟩ := hs
    obtain ⟨u', hu', hind⟩ := h.step hu
    obtain ⟨t', hrun', ht⟩ := ih hind hrun
    exact ⟨t', ⟨u', hu', hrun'⟩, ht⟩

end Indistinguishable

/-- Settles O38: `Indistinguishable` is kept by matching steps, so by induction it is kept by matching runs. -/
theorem unspecifiedValuesAreNeverObserved : Obligations.UnspecifiedValuesAreNeverObserved := by
  intro k s s' t h hs
  obtain ⟨t', hrun, ht⟩ := h.runsTo hs
  exact ⟨t', hrun, ht, ht.responses.symm⟩

/-! ### The invariant (R39) -/

namespace Inv

variable {s : State}

theorem of_sameBlock {t : State} (h : Inv s) (hb : SameBlock s t) (hc : s.config = t.config) : Inv t where
  capacity_pos := hc ▸ h.capacity_pos
  pt_wf := hc ▸ hb.pt ▸ h.pt_wf
  ready hl := (h.ready (hb.lifecycle.trans hl)).of_sameBlock hb hc

theorem withInput (h : Inv s) (rest : List Input) : Inv { s with input := rest } :=
  h.of_sameBlock (sameBlock_withInput s rest) rfl

theorem respond (h : Inv s) (r : Response) : Inv (respond r s) := h.of_sameBlock (sameBlock_respond s r) rfl

theorem haltWith (h : Inv s) (e : BuildError) : Inv (haltWith e s) where
  capacity_pos := h.capacity_pos
  pt_wf := h.pt_wf
  ready hl := by cases hl

theorem resetEvent (h : Inv s) : Inv (resetEvent s) where
  capacity_pos := h.capacity_pos
  pt_wf := by simp [Memory.wf]
  ready hl := by cases hl

/-- A legal pair whose table fits commits the facts of R39. -/
theorem commitTable {asb pb k : Nat} (h : Inv s) (hk : checkConfig asb pb = some k)
    (hc : tableLength asb k ≤ s.config.ptCapacity.val) : Inv (commitTable asb pb k s) where
  capacity_pos := h.capacity_pos
  pt_wf := commitTable_wf hc s
  ready _ := by
    obtain ⟨⟨h1, h2⟩, hk12, rfl, hka⟩ := (checkConfig_eq_some_iff asb pb k).1 hk
    exact readyFacts_commitTable h1 h2 hk12 hka hc

theorem buildServed (h : Inv s) (asb pb : Nat) : Inv (buildServed asb pb s) := by
  obtain ⟨-, hs⟩ | ⟨k, -, -, hs⟩ | ⟨k, hk, hc, hs⟩ := buildServed_cases asb pb s
  case inl => exact hs ▸ h.haltWith _
  case inr.inl => exact hs ▸ h.haltWith _
  case inr.inr => exact hs ▸ (h.commitTable hk hc).respond _

end Inv

/-- Settles O39: each of the four things a step can do keeps the invariant. -/
theorem everyStepKeepsTheInvariant : Obligations.EveryStepKeepsTheInvariant := by
  intro s t h hs
  obtain ⟨-, rfl⟩ | ⟨rest, -, rfl⟩ | ⟨q, rest, asb, pb, -, -, -, rfl⟩ | ⟨q, rest, va, r, -, -, -, -, rfl⟩ :=
    step_cases hs
  case inl => exact h
  case inr.inl => exact (h.withInput rest).resetEvent
  case inr.inr.inl => exact (h.withInput rest).buildServed asb pb
  case inr.inr.inr => exact (h.withInput rest).respond _

/-- Settles O40: the parameters have R7's values, the storage is empty, and `STATE` is not `READY`. -/
theorem invariantHoldsAtReset : Obligations.InvariantHoldsAtReset where
  capacity_pos := (config_ptCapacity_range _).1
  pt_wf := reset_wf
  ready hl := by cases hl

/-! ### The lifecycle (R24, R36) -/

/-- Settles O44: an idle step and a TRANSLATE keep `STATE`; a reset event and the two ends of BUILD are the three
changes. -/
theorem lifecycleTransitions : Obligations.LifecycleTransitions := by
  intro s t hs hne
  obtain ⟨-, rfl⟩ | ⟨rest, hi, rfl⟩ | ⟨q, rest, asb, pb, -, -, hl, rfl⟩ | ⟨q, rest, va, r, -, -, -, -, rfl⟩ :=
    step_cases hs
  case inl => exact absurd rfl hne
  case inr.inl => exact .inl ⟨resetEvent_lifecycle _, rest, hi⟩
  case inr.inr.inl =>
    obtain ⟨hready, hok⟩ | ⟨hhalted, herr⟩ := buildServed_lifecycle_cases asb pb { s with input := rest }
    · exact .inr (.inl ⟨hl, hready, hok⟩)
    · exact .inr (.inr ⟨hl, hhalted, herr⟩)
  case inr.inr.inr => exact absurd (respond_lifecycle _ _) hne

/-- A step takes the next event, if there is one. -/
theorem step_input {s t : State} (h : step s = .next t) : t.input = s.input.tail := by
  obtain ⟨hi, rfl⟩ | ⟨rest, hi, rfl⟩ | ⟨q, rest, asb, pb, hi, -, -, rfl⟩ | ⟨q, rest, va, r, hi, -, -, -, rfl⟩ :=
    step_cases h <;> simp [hi]

theorem WithinOneRun.head_ne_reset {k : Nat} {s : State} (h : WithinOneRun (k + 1) s) (rest : List Input) :
    s.input ≠ .reset :: rest := by
  intro hi
  simp [WithinOneRun, hi] at h

theorem WithinOneRun.of_step {k : Nat} {s t : State} (h : WithinOneRun (k + 1) s) (hs : step s = .next t) :
    WithinOneRun k t := by
  unfold WithinOneRun at h ⊢
  rw [step_input hs]
  cases hi : s.input with
  | nil => simp
  | cons e rest => exact fun hmem => h (by rw [hi]; exact List.mem_cons_of_mem e hmem)

/-- In `READY` only the reset event writes the block: BUILD is not admitted and TRANSLATE only responds (R81, R109). -/
theorem sameBlock_of_step_ready {s t : State} (hl : s.lifecycle = .ready) (hi : ∀ rest, s.input ≠ .reset :: rest)
    (hs : step s = .next t) : SameBlock s t := by
  obtain ⟨-, rfl⟩ | ⟨rest, hr, -⟩ | ⟨q, rest, asb, pb, -, -, hu, -⟩ | ⟨q, rest, va, r, -, -, -, -, rfl⟩ :=
    step_cases hs
  case inl => exact SameBlock.refl _
  case inr.inl => exact absurd hr (hi rest)
  case inr.inr.inl => rw [hl] at hu; cases hu
  case inr.inr.inr => exact (sameBlock_withInput s rest).trans (sameBlock_respond _ _)

/-- Settles O45, by induction on the run: after each step the block is the same, so `STATE` is still `READY`. -/
theorem readyBlockIsImmutable : Obligations.ReadyBlockIsImmutable := by
  intro k
  induction k with
  | zero =>
    intro s t _ _ hrun
    exact (hrun : s = t) ▸ SameBlock.refl s
  | succ k ih =>
    intro s t hl hone ⟨u, hu, hrun⟩
    have hb : SameBlock s u := sameBlock_of_step_ready hl hone.head_ne_reset hu
    exact hb.trans (ih u t (hb.lifecycle.symm.trans hl) (hone.of_step hu) hrun)

/-- Settles O37: `STATE` after reset is `UNCONFIGURED`, and that alone decides the admission of both operations. -/
theorem resetLeavesUnconfigured : Obligations.ResetLeavesUnconfigured := by
  have hl : State.reset.lifecycle = .unconfigured := rfl
  refine ⟨hl, by rw [hl]; rfl, fun asb pb => ?_, fun va => ?_⟩
  · exact ⟨_, (exec_build asb pb _).trans (execBuild_of_unconfigured hl asb pb)⟩
  · rw [exec_translate, execTranslate_refused (by rw [hl]; decide), hl]

end Sys2Proof.Machine

/-! ## The page-table storage: PTRead, PTWrite and the accesses of TRANSLATE (20_memory.md) -/

namespace Sys2Proof.Machine

/-! ### Entries at and above LENGTH (R53) -/

/-- Settles O27: PTRead stops at `LENGTH`, and TRANSLATE reaches the table through PTRead alone, so both tables give
the same result and that result is the whole change. -/
theorem entriesBeyondLengthNeverMatter : Obligations.EntriesBeyondLengthNeverMatter := by
  intro s m hm
  refine ⟨fun i hi => ptRead_of_le hi, fun va t ht => ?_⟩
  obtain ⟨hl, r, hr, rfl⟩ := execTranslate_eq_next ht
  have hr' : translationOf va { s with pt := m } = some r := (translationOf_withTable hm va).trans hr
  exact (execTranslate_eq_respond_iff (s := { s with pt := m }) hl va r).2 hr'

/-! ### The one fault of the model -/

theorem execBuild_ne_fault (asb pb : Nat) (s : State) (f : Fault) : execBuild asb pb s ≠ .fault f := by
  by_cases hl : s.lifecycle = .unconfigured
  · rw [execBuild_of_unconfigured hl]; exact nofun
  · rw [execBuild_refused hl]; exact nofun

/-- A TRANSLATE that faults was admitted and met an entry that has no value. -/
theorem execTranslate_eq_fault {va : Word} {s : State} {f : Fault} (h : execTranslate va s = .fault f) :
    s.lifecycle = .ready ∧ translationOf va s = none ∧
      f = .ptEntryHasNoValue (vpnOf s.vpnMask s.shift va).toNat := by
  by_cases hl : s.lifecycle = .ready
  · rw [execTranslate_of_ready hl, translateServed] at h
    cases hv : translationOf va s with
    | none => rw [hv] at h; cases h; exact ⟨hl, rfl, rfl⟩
    | some r => rw [hv] at h; cases h
  · rw [execTranslate_refused hl] at h; cases h

/-- If a step faults, its event was an admitted TRANSLATE that met an entry that has no value. -/
theorem step_eq_fault {s : State} {f : Fault} (h : step s = .fault f) :
    ∃ q rest va, s.input = .request q :: rest ∧ decode q = some (.translate va) ∧ s.lifecycle = .ready ∧
      translationOf va { s with input := rest } = none ∧
      f = .ptEntryHasNoValue (vpnOf s.vpnMask s.shift va).toNat := by
  rcases hi : s.input with _ | ⟨_ | _, rest⟩
  case nil => rw [step_of_idle hi] at h; cases h
  case cons.reset => rw [step_of_reset hi] at h; cases h
  case cons.request q =>
    rcases hd : decode q with _ | ⟨asb, pb⟩ | va
    case none => rw [step_of_undecodable hi hd] at h; cases h
    case some.build => rw [step_of_request hi hd] at h; exact absurd h (execBuild_ne_fault asb pb _ f)
    case some.translate =>
      rw [step_of_request hi hd] at h
      obtain ⟨hl, hnone, hf⟩ := execTranslate_eq_fault h
      exact ⟨q, rest, va, rfl, hd, hl, hnone, hf⟩

/-- Where every index below `LENGTH` has an entry, the six steps of R108 have a result for every address. -/
theorem Coherent.translationOf_ne_none {s : State} (h : Coherent s) (va : Word) : translationOf va s ≠ none := by
  obtain ⟨-, he⟩ | ⟨hlt, hnone, -⟩ | ⟨pte, -, -, he⟩ := translationOf_cases va s
  · rw [he]; exact nofun
  · have hle : s.pt.length ≤ (vpnOf s.vpnMask s.shift va).toNat := List.getElem?_eq_none_iff.1 hnone
    exact absurd h.entries (by omega)
  · rw [he]; exact nofun

/-- Settles O41: only an admitted TRANSLATE can fault, and in `READY` the table of R39 has every entry it can read. -/
theorem noStepFaultsUnderTheInvariant : Obligations.NoStepFaultsUnderTheInvariant := by
  intro s f hinv hfault
  obtain ⟨q, rest, va, -, -, hl, hnone, -⟩ := step_eq_fault hfault
  have hcoherent : Coherent { s with input := rest } := ((hinv.withInput rest).ready hl).coherent
  exact hcoherent.translationOf_ne_none va hnone

/-! ### PTRead after PTWrite (R42, R43) -/

theorem ptRead_ptWrite_same {s : State} {i : Nat} (hlen : i < s.length.toNat) (hpt : i < s.pt.length) (v : Pte) :
    ptRead { s with pt := ptWrite s.pt i v } i = some v :=
  (ptRead_of_lt (s := { s with pt := ptWrite s.pt i v }) hlen).trans (ptWrite_getElem?_same hpt v)

theorem ptRead_ptWrite_other (s : State) {i j : Nat} (h : j ≠ i) (v : Pte) :
    ptRead { s with pt := ptWrite s.pt i v } j = ptRead s j := by
  unfold ptRead
  rw [ptWrite_getElem?_other s.pt h.symm v]

/-- Settles O32, by what PTRead answers at the written index and at any other. -/
theorem readAfterWriteOfTheTable : Obligations.ReadAfterWriteOfTheTable := by
  intro s i v hlen hpt
  exact ⟨ptRead_ptWrite_same hlen hpt v, fun j hj => ptRead_ptWrite_other s hj v, ptWrite_length s.pt i v⟩

end Sys2Proof.Machine

/-! ## Encodings: request words, response words, one response per served request (30_encoding.md) -/

namespace Sys2Proof

/-! ### A request word is its fields side by side (R60) -/

theorem opField_append_rsvField (q : RequestWord) : opField q ++ rsvField q = q.extractLsb' 19 15 :=
  BitVec.extractLsb'_append_extractLsb'_eq_extractLsb' rfl

theorem requestWord_eq_formatB (q : RequestWord) : opField q ++ rsvField q ++ pbField q ++ asbField q = q := by
  have hpb : q.extractLsb' 19 15 ++ pbField q = q.extractLsb' 6 28 :=
    BitVec.extractLsb'_append_extractLsb'_eq_extractLsb' rfl
  have hasb : q.extractLsb' 6 28 ++ asbField q = q.extractLsb' 0 34 :=
    BitVec.extractLsb'_append_extractLsb'_eq_extractLsb' rfl
  rw [opField_append_rsvField, hpb, hasb, BitVec.extractLsb'_eq_self]

theorem requestWord_eq_formatT (q : RequestWord) : opField q ++ vaField q = q := by
  have h : opField q ++ vaField q = q.extractLsb' 0 34 := BitVec.extractLsb'_append_extractLsb'_eq_extractLsb' rfl
  rw [h, BitVec.extractLsb'_eq_self]

/-! ### Decoding and encoding undo each other (R64) -/

theorem decode_encode {i : Instr} (h : i.wf = true) : decode (encode i) = some i := by
  cases i with
  | build asb pb =>
    simp only [Instr.wf, asbFits, pbFits, Bool.and_eq_true, decide_eq_true_eq] at h
    refine (decode_eq_build_iff _ _ _).2 ⟨⟨opField_encode_build _ _, rsvField_encode_build _ _⟩, ?_, ?_⟩
    · rw [asbField_encode_build, BitVec.toNat_ofNat]
      omega
    · rw [pbField_encode_build, BitVec.toNat_ofNat]
      omega
  | translate va =>
    exact (decode_eq_translate_iff _ _).2 ⟨opField_encode_translate va, vaField_encode_translate va⟩

theorem wf_of_decode {q : RequestWord} {i : Instr} (h : decode q = some i) : i.wf = true := by
  cases i with
  | build asb pb =>
    obtain ⟨-, rfl, rfl⟩ := (decode_eq_build_iff _ _ _).1 h
    have hasb : (asbField q).toNat < 64 := (asbField q).isLt
    have hpb : (pbField q).toNat < 8192 := (pbField q).isLt
    simp only [Instr.wf, asbFits, pbFits, Bool.and_eq_true, decide_eq_true_eq]
    omega
  | translate va => rfl

theorem encode_of_decode {q : RequestWord} {i : Instr} (h : decode q = some i) : encode i = q := by
  cases i with
  | build asb pb =>
    obtain ⟨⟨hop, hrsv⟩, rfl, rfl⟩ := (decode_eq_build_iff _ _ _).1 h
    calc encode (.build (asbField q).toNat (pbField q).toNat)
        = 0b00#2 ++ 0#13 ++ pbField q ++ asbField q := by simp only [encode, BitVec.ofNat_toNat, BitVec.setWidth_eq]
      _ = opField q ++ rsvField q ++ pbField q ++ asbField q := by rw [hop, hrsv]
      _ = q := requestWord_eq_formatB q
  | translate va =>
    obtain ⟨hop, rfl⟩ := (decode_eq_translate_iff _ _).1 h
    calc encode (.translate (vaField q)) = opField q ++ vaField q := by rw [hop, encode]
      _ = q := requestWord_eq_formatT q

/-- Settles O1: `decode` is the rule's function as written; a decoded word is the fields of its operation side by side,
and the fields of an encoded operation are its operands. -/
theorem decodeAndEncodeAgree : Obligations.DecodeAndEncodeAgree :=
  ⟨fun _ => rfl, fun _ _ h => ⟨wf_of_decode h, encode_of_decode h⟩, fun _ h => decode_encode h⟩

/-! ### The number of an encoded operation (R63) -/

theorem encode_build_toNat {asb pb : Nat} (ha : asb ≤ 63) (hp : pb ≤ 8191) :
    (encode (.build asb pb)).toNat = pb * 64 + asb := by
  simp only [encode, Machine.append_toNat, BitVec.toNat_ofNat]
  omega

theorem encode_translate_toNat (va : Word) : (encode (.translate va)).toNat = 2 ^ 32 + va.toNat := by
  simp only [encode, Machine.append_toNat, BitVec.toNat_ofNat]
  omega

/-- Settles O2: each field's number times the weight of its lowest bit; the four examples are evaluated. -/
theorem encodedWordAsNumber : Obligations.EncodedWordAsNumber :=
  ⟨fun _ _ ha hp => encode_build_toNat ha hp, encode_translate_toNat, by decide, by decide, by decide, by decide⟩

/-! ### Match and mask (R61)

A row's mask has ones over the highest fields of the word and zeros below, so the masked word is the row's match exactly
when those fields are the match's. -/

theorem bitVec_append_inj {m n : Nat} {x x' : BitVec m} {y y' : BitVec n} :
    x ++ y = x' ++ y' ↔ x = x' ∧ y = y' := by
  constructor
  · intro h
    have hl := congrArg (BitVec.extractLsb' n m) h
    have hr := congrArg (BitVec.extractLsb' 0 n) h
    simp only [BitVec.extractLsb'_append_eq_left, BitVec.extractLsb'_append_eq_right] at hl hr
    exact ⟨hl, hr⟩
  · rintro ⟨rfl, rfl⟩
    rfl

theorem and_highMask_eq_iff {m n : Nat} (q : BitVec (m + n)) (a : BitVec m) :
    q &&& (BitVec.allOnes m ++ 0#n) = a ++ 0#n ↔ q.extractLsb' n m = a := by
  have hq : q.extractLsb' n m ++ q.extractLsb' 0 n = q := by
    rw [BitVec.extractLsb'_append_extractLsb'_eq_extractLsb' (Nat.zero_add n).symm, BitVec.extractLsb'_eq_self]
  conv_lhs => rw [← hq]
  rw [BitVec.and_append, BitVec.and_allOnes, BitVec.and_zero, BitVec.append_left_inj]

theorem matches_build_iff (q : RequestWord) :
    q &&& 0x3FFF80000#34 = 0x000000000#34 ↔ opField q = 0b00#2 ∧ rsvField q = 0#13 := by
  have hmask : 0x3FFF80000#34 = BitVec.allOnes 15 ++ 0#19 := by decide
  have hmatch : 0x000000000#34 = (0b00#2 ++ 0#13) ++ 0#19 := by decide
  rw [hmask, hmatch, ← bitVec_append_inj, opField_append_rsvField]
  exact and_highMask_eq_iff (m := 15) (n := 19) q (0b00#2 ++ 0#13)

theorem matches_translate_iff (q : RequestWord) :
    q &&& 0x300000000#34 = 0x100000000#34 ↔ opField q = 0b01#2 := by
  have hmask : 0x300000000#34 = BitVec.allOnes 2 ++ 0#32 := by decide
  have hmatch : 0x100000000#34 = 0b01#2 ++ 0#32 := by decide
  rw [hmask, hmatch]
  exact and_highMask_eq_iff (m := 2) (n := 32) q 0b01#2

theorem exists_decode_eq_build_iff (q : RequestWord) :
    (∃ asb pb, decode q = some (.build asb pb)) ↔ opField q = 0b00#2 ∧ rsvField q = 0#13 := by
  simp only [decode_eq_build_iff]
  exact ⟨fun ⟨_, _, h, _⟩ => h, fun h => ⟨_, _, h, rfl, rfl⟩⟩

theorem exists_decode_eq_translate_iff (q : RequestWord) :
    (∃ va, decode q = some (.translate va)) ↔ opField q = 0b01#2 := by
  simp only [decode_eq_translate_iff]
  exact ⟨fun ⟨_, h, _⟩ => h, fun h => ⟨_, h, rfl⟩⟩

/-- The three classes of words without a meaning (R65). -/
theorem decode_eq_none_of_reserved {q : RequestWord}
    (h : opField q = 0b10#2 ∨ opField q = 0b11#2 ∨ (opField q = 0b00#2 ∧ rsvField q ≠ 0#13)) : decode q = none := by
  rw [decode_eq_none_iff]
  obtain hop | hop | ⟨hop, hrsv⟩ := h
  · rw [hop]; exact ⟨nofun, nofun⟩
  · rw [hop]; exact ⟨nofun, nofun⟩
  · rw [hop]; exact ⟨fun _ => hrsv, nofun⟩

/-- Settles O3: matching a row and decoding to it are the same condition on `op` and `rsv`, and the rows disagree on
`op`. -/
theorem opcodeMapMatchesAndMasks : Obligations.OpcodeMapMatchesAndMasks := by
  intro q
  refine ⟨(matches_build_iff q).trans (exists_decode_eq_build_iff q).symm,
    (matches_translate_iff q).trans (exists_decode_eq_translate_iff q).symm, ?_, ?_⟩
  · rintro ⟨hbuild, htranslate⟩
    have h0 : opField q = 0b00#2 := ((matches_build_iff q).1 hbuild).1
    have h1 : opField q = 0b01#2 := (matches_translate_iff q).1 htranslate
    exact absurd (h0.symm.trans h1) (by decide)
  · exact fun h => decode_eq_none_of_reserved (h.imp_right .inl)

/-- Settles O4: what decodes is well formed, and what is well formed decodes from its encoding. -/
theorem encodableOperandsAreTheFieldValues : Obligations.EncodableOperandsAreTheFieldValues := by
  have hwf : ∀ asb pb, (Instr.build asb pb).wf = true ↔ asb ≤ 63 ∧ pb ≤ 8191 := by
    simp [Instr.wf, asbFits, pbFits]
  refine ⟨fun asb pb => ⟨fun ⟨q, hq⟩ => (hwf asb pb).1 (wf_of_decode hq), fun h => ?_⟩, fun va => ?_⟩
  · exact ⟨encode (.build asb pb), decode_encode ((hwf asb pb).2 h)⟩
  · exact ⟨encode (.translate va), decode_encode rfl⟩

end Sys2Proof

namespace Sys2Proof.Machine

/-- Settles O5: a reserved word does not decode, and the step looks at no state before it refuses it. -/
theorem reservedWordsAreRefusedInEveryState : Obligations.ReservedWordsAreRefusedInEveryState :=
  fun _ _ _ hi h => step_of_undecodable hi (decode_eq_none_of_reserved h)

/-! ### Responses (R66, R67) -/

theorem buildServed_responses (asb pb : Nat) (s : State) :
    ∃ b, (buildServed asb pb s).responses = s.responses ++ [.build b] := by
  obtain ⟨-, h⟩ | ⟨-, e, h⟩ := buildServed_lifecycle_cases asb pb s
  · exact ⟨.buildOk, h⟩
  · exact ⟨.error e, h⟩

/-- Settles O35: of the four things a step can do, the two that serve a request add one response, of the kind of the
decoded operation. -/
theorem oneResponsePerServedRequest : Obligations.OneResponsePerServedRequest := by
  intro s t hs
  obtain ⟨hi, rfl⟩ | ⟨rest, hi, rfl⟩ | ⟨q, rest, asb, pb, hi, hd, -, rfl⟩ | ⟨q, rest, va, r, hi, hd, -, -, rfl⟩ :=
    step_cases hs
  case inl => simp [hi]
  case inr.inl => simp [hi]
  case inr.inr.inl =>
    obtain ⟨b, hb⟩ := buildServed_responses asb pb { s with input := rest }
    simp [hi, hd, hb]
  case inr.inr.inr => simp [hi, hd]

theorem statusOf_ne_six_and_ne_seven (r : Response) : statusOf r ≠ 6 ∧ statusOf r ≠ 7 := by
  rcases r with (_ | (_ | _)) | (pa | (_ | _ | _)) <;> exact ⟨nofun, nofun⟩

/-- Settles O7: the status field of a response word is the code of its response, whatever the other bits are, and no
response has code 6 or 7. -/
theorem responseStatusCodes : Obligations.ResponseStatusCodes := by
  intro free
  simp only [responseWord_status, responseWord_pa]
  exact ⟨rfl, fun _ => ⟨rfl, rfl⟩, rfl, rfl, rfl, rfl, rfl, statusOf_ne_six_and_ne_seven⟩

end Sys2Proof.Machine

/-! ## BUILD: the checks, the commit, the freshly built table (40_build.md) -/

namespace Sys2Proof.Machine

/-! ### The entries BUILD seeds, field by field (R32, R88) -/

theorem pteOf_getLsbD_zero (f : BitVec Config.frameBits) (a v : Bool) : (pteOf 12 f a v).getLsbD 0 = v := by
  rw [pteOf_eq_fields, BitVec.getLsbD_append]
  simp

theorem pteOf_getLsbD_one (f : BitVec Config.frameBits) (a v : Bool) : (pteOf 12 f a v).getLsbD 1 = a := by
  rw [pteOf_eq_fields, BitVec.getLsbD_append, BitVec.getLsbD_append]
  simp

theorem pteOf_reservedBits (f : BitVec Config.frameBits) (a v : Bool) : (pteOf 12 f a v).extractLsb' 2 10 = 0 := by
  have ha := a.toNat_lt
  have hv := v.toNat_lt
  apply BitVec.eq_of_toNat_eq
  rw [BitVec.extractLsb'_toNat, pteOf_toNat, Nat.shiftRight_eq_div_pow]
  change _ = 0
  omega

theorem seedEntry_valid (i : Nat) : (seedEntry 12 i).getLsbD 0 = true := pteOf_getLsbD_zero _ _ _

theorem seedEntry_accessible (i : Nat) : (seedEntry 12 i).getLsbD 1 = decide (i % 4 ≠ 0) := by
  rw [seedEntry, pteOf_getLsbD_one, Bool.eq_iff_iff, bne_iff_ne, decide_eq_true_iff]

theorem seedEntry_frame {i : Nat} (hi : 2 * i < 2 ^ 20) : (pteFrame 12 (seedEntry 12 i)).toNat = 2 * i := by
  rw [pteFrame_toNat, seedEntry_toNat hi]
  split <;> omega

/-! ### The table of a block in which the facts of R39 hold -/

namespace ReadyFacts

variable {s : State}

theorem seeded_frame_lt (h : ReadyFacts s) {i : Nat} (hi : i < s.length.toNat / 2) : 2 * i < 2 ^ 20 := by
  have hcap := (config_ptCapacity_range s.config).2
  have hlen := h.length_range.2
  omega

theorem pt_seedEntry (h : ReadyFacts s) {i : Nat} (hi : i < s.length.toNat / 2) : s.pt[i]? = some (seedEntry 12 i) := by
  rw [h.pt_seeded i hi, seedEntry_eq_word32 (h.seeded_frame_lt hi)]

/-- The seeded words in order, the first `n` of them. -/
theorem pt_take (h : ReadyFacts s) {n : Nat} (hn : n ≤ s.length.toNat / 2) :
    s.pt.take n = (List.range n).map fun i => word32 (8192 * i + if i % 4 = 0 then 1 else 3) := by
  apply List.ext_getElem?
  intro i
  by_cases hi : i < n
  · rw [List.getElem?_take_of_lt hi, h.pt_seeded i (by omega), List.getElem?_map, List.getElem?_range hi,
      Option.map_some]
  · rw [List.getElem?_eq_none (by simp; omega), List.getElem?_eq_none (by simp; omega)]

/-- Every entry is one of the seeded ones or zero. -/
theorem mem_pt (h : ReadyFacts s) {w : Pte} (hw : w ∈ s.pt) : (∃ i, w = seedEntry 12 i) ∨ w = 0 := by
  obtain ⟨i, hi⟩ := List.mem_iff_getElem?.1 hw
  obtain ⟨hlt, -⟩ := List.getElem?_eq_some_iff.1 hi
  rw [h.pt_length] at hlt
  by_cases hhalf : i < s.length.toNat / 2
  · rw [h.pt_seedEntry hhalf] at hi
    exact .inl ⟨i, (Option.some.inj hi).symm⟩
  · rw [h.pt_unmapped i (by omega) hlt] at hi
    exact .inr (Option.some.inj hi).symm

theorem pt_reservedBits (h : ReadyFacts s) {w : Pte} (hw : w ∈ s.pt) : w.extractLsb' 2 10 = 0 := by
  obtain ⟨i, rfl⟩ | rfl := h.mem_pt hw
  · exact pteOf_reservedBits _ _ _
  · decide

end ReadyFacts

/-! ### A BUILD whose checks pass (R82, R85, R86) -/

theorem checkConfig_two_pow {asb k : Nat} (h1 : 1 ≤ asb) (h2 : asb ≤ 32) (hk : k ≤ 12) (hka : k ≤ asb) :
    checkConfig asb (2 ^ k) = some k :=
  (checkConfig_eq_some_iff asb (2 ^ k) k).2 ⟨⟨h1, h2⟩, hk, rfl, hka⟩

theorem exec_build_of_unconfigured {s : State} (hl : s.lifecycle = .unconfigured) (asb pb : Nat) :
    exec (.build asb pb) s = .next (buildServed asb pb s) :=
  (exec_build asb pb s).trans (execBuild_of_unconfigured hl asb pb)

section Passed

variable {s : State} {asb k : Nat}

theorem exec_build_of_le_capacity {pb : Nat} (hl : s.lifecycle = .unconfigured) (hk : checkConfig asb pb = some k)
    (hc : tableLength asb k ≤ s.config.ptCapacity.val) :
    exec (.build asb pb) s = .next (respond (.build .buildOk) (commitTable asb pb k s)) := by
  rw [exec_build_of_unconfigured hl, buildServed_of_le_capacity hk hc]

theorem readyFacts_respond_commitTable {pb : Nat} (hk : checkConfig asb pb = some k)
    (hc : tableLength asb k ≤ s.config.ptCapacity.val) (r : Response) :
    ReadyFacts (respond r (commitTable asb pb k s)) := by
  obtain ⟨⟨h1, h2⟩, hk12, rfl, hka⟩ := (checkConfig_eq_some_iff asb pb k).1 hk
  exact (readyFacts_commitTable h1 h2 hk12 hka hc).of_sameBlock (sameBlock_respond _ r) rfl

theorem commitTable_asb_toNat (pb : Nat) (ha : asb ≤ 32) : (commitTable asb pb k s).asb.toNat = asb := by
  rw [commitTable_asb, BitVec.toNat_ofNat]
  omega

theorem commitTable_shift_toNat (pb : Nat) (hk : k ≤ 12) : (commitTable asb pb k s).shift.toNat = k := by
  rw [commitTable_shift, BitVec.toNat_ofNat]
  omega

theorem commitTable_length_toNat (pb : Nat) (hc : tableLength asb k ≤ s.config.ptCapacity.val) :
    (commitTable asb pb k s).length.toNat = tableLength asb k := by
  have hcap := capacity_lt s
  rw [commitTable_length, BitVec.toNat_ofNat]
  exact Nat.mod_eq_of_lt (by omega)

end Passed

/-- Settles O9: each register is wide enough for its value, so it holds the number R83, R84 or R86 gives. -/
theorem buildCommitsRegisters : Obligations.BuildCommitsRegisters := by
  intro s asb k hl h1 h2 hk hka hc
  have hcheck := checkConfig_two_pow h1 h2 hk hka
  have hasb := commitTable_asb_toNat (s := s) (k := k) (2 ^ k) h2
  have hshift := commitTable_shift_toNat (s := s) (asb := asb) (2 ^ k) hk
  have hbytes := (readyFacts_commitTable h1 h2 hk hka hc).pageBytes_eq
  rw [hshift] at hbytes
  exact ⟨_, exec_build_of_le_capacity hl hcheck hc, rfl, hasb, hbytes, hshift, offsetMaskOf_toNat hk, rfl,
    vpnMaskOf_toNat hk, commitTable_length_toNat (2 ^ k) hc, rfl⟩

/-- Settles O11: the facts of R39 about the table, at the length BUILD commits. -/
theorem buildSeedsTable : Obligations.BuildSeedsTable := by
  intro s asb k hl h1 h2 hk hka hc
  have hcheck := checkConfig_two_pow h1 h2 hk hka
  have facts := readyFacts_respond_commitTable hcheck hc (.build .buildOk)
  have hlen : (respond (.build .buildOk) (commitTable asb (2 ^ k) k s)).length.toNat = 2 ^ (asb - k) :=
    commitTable_length_toNat (2 ^ k) hc
  refine ⟨_, exec_build_of_le_capacity hl hcheck hc, ?_⟩
  rw [← hlen]
  refine ⟨fun i hi => ⟨_, facts.pt_seedEntry hi, ?_⟩, facts.pt_unmapped, fun h9 => ?_⟩
  · rw [seedEntry_toNat (facts.seeded_frame_lt hi)]
    split <;> rfl
  · rw [facts.pt_take h9]
    decide

/-! ### A BUILD that returned `BuildOk` -/

/-- `BuildOk` is returned where both checks pass, and only there. -/
theorem exec_build_eq_next_buildOk {s t : State} {asb pb : Nat} (h : exec (.build asb pb) s = .next t)
    (hr : t.responses = s.responses ++ [.build .buildOk]) :
    ∃ k, checkConfig asb pb = some k ∧ tableLength asb k ≤ s.config.ptCapacity.val ∧
      t = respond (.build .buildOk) (commitTable asb pb k s) := by
  obtain ⟨-, rfl⟩ := execBuild_eq_next h
  obtain ⟨-, hs⟩ | ⟨-, -, -, hs⟩ | ⟨k, hk, hc, hs⟩ := buildServed_cases asb pb s
  case inl => simp [hs] at hr
  case inr.inl => simp [hs] at hr
  case inr.inr => exact ⟨k, hk, hc, hs⟩

/-- Settles O12: the table has the entries of R39, and each seeded entry has the fields R88 packs. -/
theorem builtTableProperties : Obligations.BuiltTableProperties := by
  intro s t asb pb h hr
  obtain ⟨k, hk, hc, rfl⟩ := exec_build_eq_next_buildOk h hr
  have facts := readyFacts_respond_commitTable hk hc (.build .buildOk)
  have hlen : (respond (.build .buildOk) (commitTable asb pb k s)).length.toNat = 2 ^ (asb - k) :=
    commitTable_length_toNat pb hc
  obtain ⟨-, -, hpb, -⟩ := (checkConfig_eq_some_iff asb pb k).1 hk
  refine ⟨k, hpb, ?_⟩
  rw [← hlen]
  refine ⟨facts.pt_length, facts.pt_unmapped, fun i hi => ?_, fun w hw => facts.pt_reservedBits hw⟩
  have hframe : (pteFrame 12 (seedEntry 12 i)).toNat = i * 2 := by
    rw [seedEntry_frame (facts.seeded_frame_lt hi), Nat.mul_comm]
  exact ⟨_, facts.pt_seedEntry hi, hframe, seedEntry_accessible i, seedEntry_valid i⟩

/-! ### The loops of R91 -/

theorem pseudocodeTable_eq {n : Nat} {m : Memory} (hn : n ≤ 2 ^ 20) (hm : m.length = n) :
    pseudocodeTable n m = seedTable 12 (halfOf n) (zeroTable n) := by
  rw [pseudocodeTable, zeroTable_eq_loop n m hm, ← seedTable_eq_loop]
  apply List.foldl_ext
  intro m i hi
  rw [List.mem_range] at hi
  rw [seedEntry_eq_word32 (by omega)]

/-- Settles O13: the table committed is the two bulk writes, which are the two loops. -/
theorem buildTableIsWhatTheLoopsWrite : Obligations.BuildTableIsWhatTheLoopsWrite := by
  intro s asb k m hl h1 h2 hk hka hc hm
  have hn : 2 ^ (asb - k) ≤ 2 ^ 20 := hc.trans (config_ptCapacity_range s.config).2
  refine ⟨_, exec_build_of_le_capacity hl (checkConfig_two_pow h1 h2 hk hka) hc, ?_⟩
  rw [pseudocodeTable_eq hn hm, respond_pt, commitTable_pt, config_frameLsb, tableLength]

/-! ### A BUILD that fails a check (R82, R85, R90) -/

/-- Each of the four checks of R82 that fails leaves no shift amount. -/
theorem checkConfig_eq_none {asb pb : Nat}
    (h : asb < 1 ∨ 32 < asb ∨ pb < 1 ∨ 4096 < pb ∨ (¬∃ k, 2 ^ k = pb) ∨ ∃ k, 2 ^ k = pb ∧ asb < k) :
    checkConfig asb pb = none := by
  rw [checkConfig_eq_none_iff]
  rintro k ⟨⟨h1, h2⟩, hk, rfl, hka⟩
  have hb := pow_shift_bounds hk
  obtain h | h | h | h | h | ⟨j, hj, hlt⟩ := h
  · omega
  · omega
  · omega
  · omega
  · exact h ⟨k, rfl⟩
  · have hjk : j = k := Nat.pow_right_injective le_rfl hj
    omega

/-- Settles O14: no shift amount, so BUILD halts, which writes `STATE` and the response alone. -/
theorem buildConfigurationErrors : Obligations.BuildConfigurationErrors := by
  intro s asb pb hl h
  rw [exec_build_of_unconfigured hl, buildServed_of_checkConfig_none (checkConfig_eq_none h)]
  rfl

/-- Settles O15: the two sides of the capacity check. -/
theorem buildResourceExhaustion : Obligations.BuildResourceExhaustion := by
  intro s asb k hl h1 h2 hk hka
  refine ⟨fun hc => ?_, fun hc i hi => ?_⟩
  · rw [exec_build_of_unconfigured hl, buildServed_of_capacity_lt (checkConfig_two_pow h1 h2 hk hka) hc]
    rfl
  · have hcap := (config_ptCapacity_range s.config).2
    omega

/-! ### The frame of BUILD -/

@[simp] theorem buildServed_draws (asb pb : Nat) (s : State) : (buildServed asb pb s).draws = s.draws := by
  obtain ⟨-, h⟩ | ⟨k, -, -, h⟩ | ⟨k, -, -, h⟩ := buildServed_cases asb pb s <;> simp [h]

theorem buildServed_of_not_ready {asb pb : Nat} {s : State} (h : (buildServed asb pb s).lifecycle ≠ .ready) :
    ∃ e, buildServed asb pb s = haltWith e s := by
  obtain ⟨-, hs⟩ | ⟨-, -, -, hs⟩ | ⟨k, -, -, hs⟩ := buildServed_cases asb pb s
  case inl => exact ⟨_, hs⟩
  case inr.inl => exact ⟨_, hs⟩
  case inr.inr => exact absurd (by rw [hs]; rfl) h

/-- Settles O10: a BUILD that does not end `READY` only halts, and halting writes no register and no entry. -/
theorem buildFrame : Obligations.BuildFrame := by
  intro s t asb pb h
  obtain ⟨hl, rfl⟩ := execBuild_eq_next h
  refine ⟨hl, buildServed_config _ _ _, buildServed_input _ _ _, buildServed_draws _ _ _, buildServed_responses _ _ _,
    fun hne => ?_⟩
  obtain ⟨e, he⟩ := buildServed_of_not_ready hne
  rw [he]
  exact ⟨rfl, rfl, rfl, rfl, rfl, rfl, rfl, rfl⟩

/-- Settles O17: the admission looks at `STATE` alone. -/
theorem buildServedOnlyWhenUnconfigured : Obligations.BuildServedOnlyWhenUnconfigured := fun _ asb pb =>
  ⟨fun hl => ⟨_, exec_build_of_unconfigured hl asb pb⟩, fun hl => execBuild_refused hl asb pb⟩

/-! ### The worked example (R95) -/

/-- Settles O19: the word decodes to `BUILD 32, 4096`, both checks pass, and the table is the one of R39 at length
`2^20`. -/
theorem buildWorkedExample : Obligations.BuildWorkedExample := by
  intro s rest hl hcap hi
  have hd : decode 0x000040020#34 = some (.build 32 4096) := by decide
  have hk : checkConfig 32 4096 = some 12 := by decide
  have hc : tableLength 32 12 ≤ ({ s with input := rest } : State).config.ptCapacity.val := by
    rw [show tableLength 32 12 = 2 ^ 20 from rfl]
    exact hcap.ge
  have facts := readyFacts_respond_commitTable hk hc (.build .buildOk)
  have hlen : (respond (.build .buildOk) (commitTable 32 4096 12 { s with input := rest })).length.toNat = 1048576 :=
    commitTable_length_toNat 4096 hc
  have hstep := step_of_build hi hd hl
  rw [buildServed_of_le_capacity hk hc] at hstep
  refine ⟨_, hstep, rfl, rfl, rfl, rfl, hlen, facts.pt_length.trans hlen, ?_, ?_, ?_, ?_, ?_, rfl, rfl⟩
  · exact facts.pt_seeded 0 (by omega)
  · exact facts.pt_seeded 1 (by omega)
  · exact facts.pt_seeded 2 (by omega)
  · exact facts.pt_seeded 524287 (by omega)
  · exact fun i hlo hhi => facts.pt_unmapped i (by omega) (by omega)

/-! ### Translations on a freshly built table (R93) -/

theorem exec_translate_eq_next_iff {s : State} (hl : s.lifecycle = .ready) (va : Word) (r : TranslateResult) :
    exec (.translate va) s = .next { s with responses := s.responses ++ [.translate r] } ↔
      translationOf va s = some r :=
  execTranslate_eq_respond_iff hl va r

theorem Coherent.translationOf_outOfRange {s : State} (h : Coherent s) {va : Word}
    (hv : s.length.toNat ≤ va.toNat / 2 ^ s.shift.toNat) : translationOf va s = some (.fault .outOfRange) := by
  rw [← h.vpn_toNat] at hv
  obtain ⟨-, he⟩ | ⟨hlt, -, -⟩ | ⟨-, hlt, -, -⟩ := translationOf_cases va s
  · exact he
  · omega
  · omega

theorem Coherent.translationOf_entry {s : State} (h : Coherent s) {va : Word} {pte : Pte}
    (hv : va.toNat / 2 ^ s.shift.toNat < s.length.toNat) (hp : s.pt[va.toNat / 2 ^ s.shift.toNat]? = some pte) :
    translationOf va s = some (classifyEntry 12 s.shift (offsetOf s.offsetMask va) pte) := by
  rw [← h.vpn_toNat] at hv hp
  obtain ⟨hle, -⟩ | ⟨-, hnone, -⟩ | ⟨p, -, hsome, he⟩ := translationOf_cases va s
  · omega
  · rw [hp] at hnone
    cases hnone
  · rw [hp] at hsome
    cases hsome
    exact he

namespace ReadyFacts

variable {s : State}

/-- The page numbers at `LENGTH` and above are those of the addresses at `2^ASB` and above. -/
theorem length_le_vpn_iff (h : ReadyFacts s) (va : Word) :
    s.length.toNat ≤ va.toNat / 2 ^ s.shift.toNat ↔ 2 ^ s.asb.toNat ≤ va.toNat := by
  rw [Nat.le_div_iff_mul_le (Nat.two_pow_pos _), h.length_eq, Nat.pow_sub_mul_pow 2 h.shift_le_asb]

theorem four_le_length_iff (h : ReadyFacts s) : 4 ≤ s.length.toNat ↔ s.shift.toNat + 2 ≤ s.asb.toNat := by
  have hpow : 2 ^ 2 ≤ s.length.toNat ↔ 2 ≤ s.asb.toNat - s.shift.toNat := by
    rw [h.length_eq, Nat.pow_le_pow_iff_right Nat.one_lt_two]
  omega

variable {va : Word}

theorem translationOf_notValid (h : ReadyFacts s) (hva : va.toNat < 2 ^ s.asb.toNat)
    (hv : s.length.toNat / 2 ≤ va.toNat / 2 ^ s.shift.toNat) : translationOf va s = some (.fault .notValid) := by
  have hlt : va.toNat / 2 ^ s.shift.toNat < s.length.toNat := by
    rw [← Nat.not_le, h.length_le_vpn_iff]
    exact Nat.not_le.2 hva
  rw [h.coherent.translationOf_entry hlt (h.pt_unmapped _ hv hlt), classifyEntry_notValid (by decide)]

/-- Below half the entry is the seeded one, so its `accessible` bit alone decides. -/
theorem translationOf_seeded (h : ReadyFacts s) (hv : va.toNat / 2 ^ s.shift.toNat < s.length.toNat / 2) :
    translationOf va s =
      some (classifyEntry 12 s.shift (offsetOf s.offsetMask va) (seedEntry 12 (va.toNat / 2 ^ s.shift.toNat))) :=
  h.coherent.translationOf_entry (by omega) (h.pt_seedEntry hv)

theorem translationOf_notAccessible (h : ReadyFacts s) (hv : va.toNat / 2 ^ s.shift.toNat < s.length.toNat / 2)
    (h4 : va.toNat / 2 ^ s.shift.toNat % 4 = 0) : translationOf va s = some (.fault .notAccessible) := by
  have hacc : (seedEntry 12 (va.toNat / 2 ^ s.shift.toNat)).getLsbD 1 = false := by
    rw [seedEntry_accessible, decide_eq_false_iff_not]
    exact not_not.2 h4
  rw [h.translationOf_seeded hv, classifyEntry_notAccessible (seedEntry_valid _) hacc]

theorem translationOf_success (h : ReadyFacts s) (hv : va.toNat / 2 ^ s.shift.toNat < s.length.toNat / 2)
    (h4 : va.toNat / 2 ^ s.shift.toNat % 4 ≠ 0) :
    ∃ pa, translationOf va s = some (.success pa) ∧
      pa.toNat = 2 * (va.toNat / 2 ^ s.shift.toNat) * s.pageBytes.toNat + va.toNat % s.pageBytes.toNat := by
  have hacc : (seedEntry 12 (va.toNat / 2 ^ s.shift.toNat)).getLsbD 1 = true := by
    rw [seedEntry_accessible]
    exact decide_eq_true h4
  have ho : (offsetOf s.offsetMask va).toNat = va.toNat % 2 ^ s.shift.toNat := by
    rw [h.coherent.offsetMask, offsetOf_toNat h.shift_le]
  have hlt : (offsetOf s.offsetMask va).toNat < 2 ^ s.shift.toNat := ho ▸ Nat.mod_lt _ (Nat.two_pow_pos _)
  refine ⟨_, by rw [h.translationOf_seeded hv, classifyEntry_success (seedEntry_valid _) hacc], ?_⟩
  rw [physicalAddress_toNat h.shift_le _ hlt, seedEntry_frame (h.seeded_frame_lt hv), ho, h.pageBytes_eq]

/-- With fewer than four entries page 0 alone is seeded, and it is not accessible; with four, page 1 translates. -/
theorem exists_success_iff (h : ReadyFacts s) :
    (∃ va pa, translationOf va s = some (.success pa)) ↔ 4 ≤ s.length.toNat := by
  constructor
  · rintro ⟨va, pa, hs⟩
    by_contra hlen
    by_cases hv : va.toNat / 2 ^ s.shift.toNat < s.length.toNat / 2
    · have hhalf : s.length.toNat / 2 ≤ 1 := by omega
      have hzero : va.toNat / 2 ^ s.shift.toNat = 0 := Nat.lt_one_iff.1 (hv.trans_le hhalf)
      rw [h.translationOf_notAccessible hv (by rw [hzero])] at hs
      cases hs
    by_cases hva : va.toNat < 2 ^ s.asb.toNat
    · rw [h.translationOf_notValid hva (by omega)] at hs
      cases hs
    · have hout := (h.length_le_vpn_iff va).2 (by omega)
      rw [h.coherent.translationOf_outOfRange hout] at hs
      cases hs
  · intro hlen
    have hb := pow_shift_bounds h.shift_le
    have hva : (word32 (2 ^ s.shift.toNat)).toNat = 2 ^ s.shift.toNat := by
      rw [BitVec.toNat_ofNat]
      omega
    have hone : (word32 (2 ^ s.shift.toNat)).toNat / 2 ^ s.shift.toNat = 1 := by
      rw [hva, Nat.div_self (by omega)]
    obtain ⟨pa, hpa, -⟩ := h.translationOf_success (va := word32 (2 ^ s.shift.toNat)) (by omega) (by omega)
    exact ⟨_, pa, hpa⟩

end ReadyFacts

/-- Settles O30: TRANSLATE returns what the six steps give, and these are the four cases of the page number against
`LENGTH`, half of it, and 4. -/
theorem freshTableTranslations : Obligations.FreshTableTranslations := by
  intro s hl facts
  simp only [exec_translate_eq_next_iff hl]
  refine ⟨fun va => ⟨fun hva => ?_, ?_, ?_, ?_⟩, facts.exists_success_iff, facts.four_le_length_iff⟩
  · exact facts.coherent.translationOf_outOfRange ((facts.length_le_vpn_iff va).2 hva)
  · exact facts.translationOf_notValid
  · exact facts.translationOf_notAccessible
  · exact facts.translationOf_success

end Sys2Proof.Machine

/-! ## TRANSLATE: the page number and offset, the four results, and what they depend on (41_translate.md) -/

namespace Sys2Proof.Machine

/-! ### The split of a virtual address (R102, R113) -/

namespace Coherent

variable {s : State}

theorem vpnOf_eq_shiftRight (h : Coherent s) (va : Word) : vpnOf s.vpnMask s.shift va = va >>> s.shift.toNat := by
  apply BitVec.eq_of_toNat_eq
  rw [h.vpn_toNat, BitVec.toNat_ushiftRight, Nat.shiftRight_eq_div_pow]

theorem offset_toNat (h : Coherent s) (va : Word) :
    (offsetOf s.offsetMask va).toNat = va.toNat % 2 ^ s.shift.toNat := by
  rw [h.offsetMask, offsetOf_toNat h.shift_le]

end Coherent

/-- Settles O24: the low bits the shift drops are exactly those the mask clears, so the two numbers are quotient and
remainder of one division. -/
theorem maskThenShiftIsTheQuotient : Obligations.MaskThenShiftIsTheQuotient := by
  intro s va h
  refine ⟨rfl, h.vpnOf_eq_shiftRight va, h.vpn_toNat va, h.offset_toNat va, ?_⟩
  rw [h.vpn_toNat, h.offset_toNat, Nat.div_add_mod']

/-! ### Steps 4 to 6 on an entry (R105 to R107) -/

/-- `OutOfRange` is decided before an entry is read. -/
theorem classifyEntry_ne_outOfRange (lsb : Nat) (k : BitVec 4) (o : Word) (p : Pte) :
    classifyEntry lsb k o p ≠ .fault .outOfRange := by
  unfold classifyEntry
  split
  · exact nofun
  · split <;> exact nofun

/-- What the result of an entry depends on: `valid`; `accessible` where it is valid; the frame number where it is
both (R117). -/
theorem classifyEntry_congr {p p' : Pte} (h0 : p.getLsbD 0 = p'.getLsbD 0)
    (h1 : p.getLsbD 0 = true → p.getLsbD 1 = p'.getLsbD 1) {lsb : Nat}
    (hf : p.getLsbD 0 = true → p.getLsbD 1 = true → pteFrame lsb p = pteFrame lsb p') (k : BitVec 4) (o : Word) :
    classifyEntry lsb k o p = classifyEntry lsb k o p' := by
  cases hv : p.getLsbD 0 with
  | false => rw [classifyEntry_notValid hv, classifyEntry_notValid (h0.symm.trans hv)]
  | true =>
    have hv' : p'.getLsbD 0 = true := h0.symm.trans hv
    have h1 := h1 hv
    cases ha : p.getLsbD 1 with
    | false => rw [classifyEntry_notAccessible hv ha, classifyEntry_notAccessible hv' (h1.symm.trans ha)]
    | true => rw [classifyEntry_success hv ha, classifyEntry_success hv' (h1.symm.trans ha), hf hv ha]

/-! ### The four results over a coherent table (R111) -/

namespace Coherent

variable {s : State} {va : Word}

theorem exists_entry (h : Coherent s) {i : Nat} (hi : i < s.length.toNat) : ∃ pte, s.pt[i]? = some pte :=
  ⟨_, List.getElem?_eq_getElem (hi.trans_le h.entries)⟩

theorem exists_translationOf (h : Coherent s) (va : Word) : ∃ r, translationOf va s = some r :=
  Option.ne_none_iff_exists'.1 (h.translationOf_ne_none va)

theorem translationOf_eq_outOfRange_iff (h : Coherent s) :
    translationOf va s = some (.fault .outOfRange) ↔ s.length.toNat ≤ va.toNat / 2 ^ s.shift.toNat := by
  refine ⟨fun hout => ?_, h.translationOf_outOfRange⟩
  by_contra hv
  obtain ⟨pte, hp⟩ := h.exists_entry (Nat.not_le.1 hv)
  rw [h.translationOf_entry (Nat.not_le.1 hv) hp] at hout
  exact classifyEntry_ne_outOfRange _ _ _ _ (Option.some.inj hout)

section Entry

variable {pte : Pte} (h : Coherent s) (hv : va.toNat / 2 ^ s.shift.toNat < s.length.toNat)
  (hp : s.pt[va.toNat / 2 ^ s.shift.toNat]? = some pte)

include h hv hp

theorem translationOf_notValid (h0 : pte.getLsbD 0 = false) : translationOf va s = some (.fault .notValid) := by
  rw [h.translationOf_entry hv hp, classifyEntry_notValid h0]

theorem translationOf_notAccessible (h0 : pte.getLsbD 0 = true) (h1 : pte.getLsbD 1 = false) :
    translationOf va s = some (.fault .notAccessible) := by
  rw [h.translationOf_entry hv hp, classifyEntry_notAccessible h0 h1]

theorem translationOf_success (h0 : pte.getLsbD 0 = true) (h1 : pte.getLsbD 1 = true) :
    translationOf va s =
      some (.success (physicalAddress s.shift (pteFrame 12 pte) (offsetOf s.offsetMask va))) := by
  rw [h.translationOf_entry hv hp, classifyEntry_success h0 h1]

end Entry

end Coherent

/-- Settles O21: the rows are those of the six steps, which have one result for every address. -/
theorem translateClassification : Obligations.TranslateClassification := by
  intro s va hl h
  simp only [exec_translate_eq_next_iff hl]
  refine ⟨h.translationOf_outOfRange, fun pte hv hp => ⟨?_, ?_, ?_⟩, ?_⟩
  · exact h.translationOf_notValid hv hp
  · exact h.translationOf_notAccessible hv hp
  · exact fun h0 h1 => ⟨_, h.translationOf_success hv hp h0 h1⟩
  · obtain ⟨r, hr⟩ := h.exists_translationOf va
    exact ⟨r, hr, fun r' hr' => Option.some.inj (hr'.symm.trans hr)⟩

/-! ### Admission and frame (R101, R109) -/

theorem exec_translate_refused {s : State} (hl : s.lifecycle ≠ .ready) (va : Word) :
    exec (.translate va) s = .refused (.translateNotAdmitted s.lifecycle) :=
  execTranslate_refused hl va

/-- Settles O22: `STATE` alone decides the admission, and over a coherent table the six steps always have a result. -/
theorem translateServedOnlyWhenReady : Obligations.TranslateServedOnlyWhenReady := by
  intro s va
  refine ⟨fun hl h => ?_, fun hl => exec_translate_refused hl va⟩
  obtain ⟨r, hr⟩ := h.exists_translationOf va
  exact ⟨_, (exec_translate_eq_next_iff hl va r).2 hr⟩

/-- Settles O28: an answered TRANSLATE was admitted, and only responded. -/
theorem translateWritesNoState : Obligations.TranslateWritesNoState := by
  intro s t va h
  obtain ⟨hl, r, -, ht⟩ := execTranslate_eq_next h
  exact ⟨hl, r, ht⟩

/-! ### The pure function of R108 -/

section Pure

variable {t : Memory} {n k : Nat} {va : Word}

theorem translatePure_outOfRange (hv : n ≤ va.toNat / 2 ^ k) :
    translatePure t n k va = some (.fault .outOfRange) := by
  simp [translatePure, hv]

variable {pte : Pte} (hv : va.toNat / 2 ^ k < n) (hp : t[va.toNat / 2 ^ k]? = some pte)

include hv hp

theorem translatePure_notValid (h0 : pte.getLsbD 0 = false) :
    translatePure t n k va = some (.fault .notValid) := by
  simp only [translatePure, Nat.not_le.2 hv, if_false, hp, h0, if_true]

theorem translatePure_notAccessible (h0 : pte.getLsbD 0 = true) (h1 : pte.getLsbD 1 = false) :
    translatePure t n k va = some (.fault .notAccessible) := by
  simp only [translatePure, Nat.not_le.2 hv, if_false, hp, h0, h1, if_true, Bool.true_eq_false]

theorem translatePure_success (h0 : pte.getLsbD 0 = true) (h1 : pte.getLsbD 1 = true) :
    translatePure t n k va =
      some (.success (word32 ((pteFrame 12 pte).toNat * 2 ^ k + va.toNat % 2 ^ k))) := by
  simp only [translatePure, Nat.not_le.2 hv, if_false, hp, h0, h1, Bool.true_eq_false, pteFrame, Config.frameBits]

end Pure

/-- The six steps on masks and shifts give what the pure function gives on natural numbers, row for row. -/
theorem Coherent.translationOf_eq_translatePure {s : State} (h : Coherent s) (va : Word) :
    translationOf va s = translatePure s.pt s.length.toNat s.shift.toNat va := by
  by_cases hout : s.length.toNat ≤ va.toNat / 2 ^ s.shift.toNat
  · rw [h.translationOf_outOfRange hout, translatePure_outOfRange hout]
  have hv : va.toNat / 2 ^ s.shift.toNat < s.length.toNat := Nat.not_le.1 hout
  obtain ⟨pte, hp⟩ := h.exists_entry hv
  cases h0 : pte.getLsbD 0 with
  | false => rw [h.translationOf_notValid hv hp h0, translatePure_notValid hv hp h0]
  | true =>
    cases h1 : pte.getLsbD 1 with
    | false => rw [h.translationOf_notAccessible hv hp h0 h1, translatePure_notAccessible hv hp h0 h1]
    | true =>
      rw [h.translationOf_success hv hp h0 h1, translatePure_success hv hp h0 h1, h.offsetMask,
        physicalAddress_eq_word32 h.shift_le]

/-- Settles O20: TRANSLATE returns what the six steps give, which is what the pure function gives. -/
theorem translateIsThePureFunction : Obligations.TranslateIsThePureFunction := by
  intro s va
  refine ⟨fun hl => exec_translate_refused hl va, fun hl h => ?_⟩
  obtain ⟨r, hr⟩ := h.exists_translationOf va
  exact ⟨r, (h.translationOf_eq_translatePure va).symm.trans hr, (exec_translate_eq_next_iff hl va r).2 hr⟩

/-! ### The address of a success (R115) -/

namespace Coherent

variable {s : State}

theorem physicalAddress_toNat (h : Coherent s) (frame : BitVec Config.frameBits) (va : Word) :
    (physicalAddress s.shift frame (offsetOf s.offsetMask va)).toNat =
      frame.toNat * 2 ^ s.shift.toNat + va.toNat % 2 ^ s.shift.toNat := by
  have hlt : (offsetOf s.offsetMask va).toNat < 2 ^ s.shift.toNat :=
    (h.offset_toNat va).trans_lt (Nat.mod_lt _ (Nat.two_pow_pos _))
  rw [Machine.physicalAddress_toNat h.shift_le frame hlt, h.offset_toNat]

theorem physicalAddress_div (h : Coherent s) (frame : BitVec Config.frameBits) (va : Word) :
    (physicalAddress s.shift frame (offsetOf s.offsetMask va)).toNat / 2 ^ s.shift.toNat = frame.toNat := by
  have hpos : 0 < 2 ^ s.shift.toNat := Nat.two_pow_pos _
  rw [h.physicalAddress_toNat, Nat.mul_comm, Nat.mul_add_div hpos, Nat.div_eq_of_lt (Nat.mod_lt _ hpos), Nat.add_zero]

theorem physicalAddress_mod (h : Coherent s) (frame : BitVec Config.frameBits) (va : Word) :
    (physicalAddress s.shift frame (offsetOf s.offsetMask va)).toNat % 2 ^ s.shift.toNat =
      va.toNat % 2 ^ s.shift.toNat := by
  rw [h.physicalAddress_toNat, Nat.mul_add_mod_self_right, Nat.mod_mod]

end Coherent

/-- Settles O23: `frame * 2^SHIFT + offset` has an offset below `2^SHIFT`, so its remainder is the offset, its quotient
the frame number, and the frame number's 20 bits bound it. -/
theorem successfulAddressShape : Obligations.SuccessfulAddressShape := by
  intro s va pte hl h hv hp h0 h1
  have hframe : (pteFrame 12 pte).toNat < 2 ^ 20 := (pteFrame 12 pte).isLt
  have hdiv := h.physicalAddress_div (pteFrame 12 pte) va
  refine ⟨_, (exec_translate_eq_next_iff hl va _).2 (h.translationOf_success hv hp h0 h1), ?_, ?_,
    h.physicalAddress_toNat _ va, ?_⟩
  · apply BitVec.eq_of_toNat_eq
    exact (h.offset_toNat _).trans ((h.physicalAddress_mod _ va).trans (h.offset_toNat va).symm)
  · apply BitVec.eq_of_toNat_eq
    rw [BitVec.toNat_ushiftRight, Nat.shiftRight_eq_div_pow, hdiv, BitVec.toNat_setWidth]
    exact (Nat.mod_eq_of_lt (hframe.trans (by decide))).symm
  · rw [Nat.pow_add]
    exact Nat.lt_mul_of_div_lt (hdiv.trans_lt hframe) (Nat.two_pow_pos _)

/-! ### Addresses beyond the address space (R114) -/

/-- Settles O25: the page number reaches `LENGTH` exactly where the address reaches `2^ASB`, which no 32-bit address
does for `ASB = 32`. -/
theorem outOfRangeIsBeyondTheAddressSpace : Obligations.OutOfRangeIsBeyondTheAddressSpace := by
  intro s va hl facts
  have hiff : translationOf va s = some (.fault .outOfRange) ↔ 2 ^ s.asb.toNat ≤ va.toNat :=
    facts.coherent.translationOf_eq_outOfRange_iff.trans (facts.length_le_vpn_iff va)
  rw [ne_eq, exec_translate_eq_next_iff hl, hiff]
  refine ⟨Iff.rfl, fun hasb => ?_⟩
  rw [hasb]
  exact Nat.not_le.2 va.isLt

/-! ### What the result depends on (R110, R117) -/

/-- Settles O26: beyond `LENGTH` neither state reads its entry; below it the results are those of the two entries under
the same shift and offset. -/
theorem resultDependsOnTheTestedBitsOnly : Obligations.ResultDependsOnTheTestedBitsOnly := by
  intro s s' va p p' r hl hl' h h' hshift hlength hp hp' h0 h1 hf
  rw [exec_translate_eq_next_iff hl, exec_translate_eq_next_iff hl']
  have hmask : s'.offsetMask = s.offsetMask := by rw [h'.offsetMask, h.offsetMask, hshift]
  rw [← hshift] at hp'
  intro hr
  refine ⟨?_, fun hvalid hv => ?_⟩
  · rw [← hr]
    by_cases hout : s.length.toNat ≤ va.toNat / 2 ^ s.shift.toNat
    · rw [h.translationOf_outOfRange hout, h'.translationOf_outOfRange (by rwa [hlength, hshift])]
    · have hv := Nat.not_le.1 hout
      rw [h.translationOf_entry hv hp, h'.translationOf_entry (by rwa [hlength, hshift]) hp', hshift, hmask,
        classifyEntry_congr h0 h1 hf]
  · exact Option.some.inj (hr.symm.trans (h.translationOf_notValid hv hp hvalid))

/-- Settles O46: a run without a reset event leaves the block as it was, and the six steps look at the block only. -/
theorem translationIsIdempotentAcrossARun : Obligations.TranslationIsIdempotentAcrossARun := by
  intro k s t va r hl hone hrun hs
  have hblock : SameBlock s t := readyBlockIsImmutable k s t hl hone hrun
  rw [exec_translate_eq_next_iff hl, hblock.translationOf_eq] at hs
  exact (exec_translate_eq_next_iff (hblock.lifecycle.symm.trans hl) va r).2 hs

/-! ### The worked examples (R119) -/

/-- With pages of 4096 bytes the result on a seeded entry is computed from the address alone. -/
theorem ReadyFacts.translationOf_of_shift_eq_12 {s : State} (h : ReadyFacts s) (hshift : s.shift = 12) {va : Word}
    (hv : va.toNat / 4096 < s.length.toNat / 2) :
    translationOf va s =
      some (classifyEntry 12 12 (offsetOf (offsetMaskOf 12) va) (seedEntry 12 (va.toNat / 4096))) := by
  have hseeded : va.toNat / 2 ^ s.shift.toNat < s.length.toNat / 2 := by rw [hshift]; exact hv
  rw [h.translationOf_seeded hseeded, h.coherent.offsetMask, hshift]
  rfl

/-- Settles O31: the four page numbers are below half of `LENGTH`, so the entries are the seeded ones. -/
theorem translateWorkedExamples : Obligations.TranslateWorkedExamples := by
  intro s hl facts hasb hshift
  have hlen : s.length.toNat = 1048576 := by rw [facts.length_eq, hasb, hshift]; rfl
  have hseeded (va : Word) (hva : va.toNat / 4096 < 524288) :=
    facts.translationOf_of_shift_eq_12 hshift (va := va) (by omega)
  simp only [exec_translate_eq_next_iff hl]
  refine ⟨hlen, facts.pt_seeded 2 (by omega), facts.pt_seeded 3 (by omega), ?_, ?_, ?_, ?_⟩
  · exact (hseeded 0x00002000 (by decide)).trans (by decide)
  · exact (hseeded 0x00001000 (by decide)).trans (by decide)
  · exact (hseeded 0x00000000 (by decide)).trans (by decide)
  · exact (hseeded 0x00003ABC (by decide)).trans (by decide)

end Sys2Proof.Machine

/-! ## Exceptions: build errors, translation faults, refused requests, idleness (60_exceptions.md) -/

namespace Sys2Proof.Machine

/-! ### The one result of a served BUILD (R131, R135) -/

/-- The legal pairs with R82's bound on the page size in the place of the bound on the shift amount. -/
theorem checkConfig_eq_some_iff_pageBytes (asb pb k : Nat) :
    checkConfig asb pb = some k ↔ (1 ≤ asb ∧ asb ≤ 32) ∧ (1 ≤ pb ∧ pb ≤ 4096) ∧ 2 ^ k = pb ∧ k ≤ asb := by
  rw [checkConfig_eq_some_iff]
  constructor
  · rintro ⟨hasb, hk, rfl, hka⟩
    exact ⟨hasb, pow_shift_bounds hk, rfl, hka⟩
  · rintro ⟨hasb, ⟨-, hpb⟩, rfl, hka⟩
    exact ⟨hasb, (Nat.pow_le_pow_iff_right (m := 12) Nat.one_lt_two).1 hpb, rfl, hka⟩

/-- Settles O16: each of the three ways a served BUILD ends has its own result and `STATE`, and the conditions of the
results are those of the two checks. -/
theorem buildHasExactlyOneResult : Obligations.BuildHasExactlyOneResult := by
  intro s asb pb hl
  have hlegal : (∃ k, checkConfig asb pb = some k) ↔
      (1 ≤ asb ∧ asb ≤ 32) ∧ (1 ≤ pb ∧ pb ≤ 4096) ∧ ∃ k, 2 ^ k = pb ∧ k ≤ asb := by
    simp only [checkConfig_eq_some_iff_pageBytes, exists_and_left]
  have hlong : (∃ k, checkConfig asb pb = some k ∧ s.config.ptCapacity.val < tableLength asb k) ↔
      (1 ≤ asb ∧ asb ≤ 32) ∧ (1 ≤ pb ∧ pb ≤ 4096) ∧
        ∃ k, 2 ^ k = pb ∧ k ≤ asb ∧ s.config.ptCapacity.val < 2 ^ (asb - k) := by
    simp only [checkConfig_eq_some_iff_pageBytes, and_assoc, exists_and_left, tableLength]
  rw [exec_build_of_unconfigured hl, ← hlegal, ← hlong]
  obtain ⟨hk, hs⟩ | ⟨k, hk, hc, hs⟩ | ⟨k, hk, hc, hs⟩ := buildServed_cases asb pb s
  case inl => exact ⟨_, .error .configurationError, rfl, by simp [hs, hk]⟩
  case inr.inl => exact ⟨_, .error .resourceExhaustion, rfl, by simp [hs, hk, hc]⟩
  case inr.inr => exact ⟨_, .buildOk, rfl, by simp [hs, hk, hc]⟩

/-! ### A translation fault is a returned value (R136) -/

theorem Coherent.respond {s : State} (h : Coherent s) (r : Response) : Coherent (respond r s) :=
  ⟨h.shift_le, h.offsetMask_eq, h.vpnMask_eq, h.entries⟩

/-- Settles O29: the answered TRANSLATE only responded, so the state it left is still `READY` and coherent. -/
theorem afterAFaultTheNextRequestIsServed : Obligations.AfterAFaultTheNextRequestIsServed := by
  intro s t va k h ht hfault
  obtain ⟨hl, r, rfl⟩ := translateWritesNoState s t va ht
  obtain rfl : r = .fault k := by simpa using hfault
  exact ⟨rfl, hl, fun va' => (translateServedOnlyWhenReady _ va').1 hl (h.respond _)⟩

/-! ### Which requests are served and which refused (R140) -/

/-- Under the invariant a request is served exactly in the two cases of the admission table. -/
theorem Inv.exists_step_eq_next_iff {s : State} (h : Inv s) {q : RequestWord} {rest : List Input}
    (hi : s.input = .request q :: rest) :
    (∃ t, step s = .next t) ↔
      (∃ asb pb, decode q = some (.build asb pb) ∧ s.lifecycle = .unconfigured) ∨
      (∃ va, decode q = some (.translate va) ∧ s.lifecycle = .ready) := by
  constructor
  · rintro ⟨t, hs⟩
    obtain ⟨hi', -⟩ | ⟨_, hi', -⟩ | ⟨q', _, asb, pb, hi', hd, hl, -⟩ | ⟨q', _, va, _, hi', hd, hl, -, -⟩ :=
      step_cases hs
    · cases hi.symm.trans hi'
    · cases hi.symm.trans hi'
    · cases hi.symm.trans hi'
      exact .inl ⟨asb, pb, hd, hl⟩
    · cases hi.symm.trans hi'
      exact .inr ⟨va, hd, hl⟩
  · rintro (⟨asb, pb, hd, hl⟩ | ⟨va, hd, hl⟩)
    · exact ⟨_, step_of_build hi hd hl⟩
    · obtain ⟨r, hr⟩ := ((h.withInput rest).ready hl).coherent.exists_translationOf va
      exact ⟨_, step_of_translate hi hd hl hr⟩

/-- Under the invariant no step faults, so what is not answered by a next state is refused. -/
theorem Inv.exists_step_eq_refused_iff {s : State} (h : Inv s) :
    (∃ r, step s = .refused r) ↔ ¬∃ t, step s = .next t := by
  cases hs : step s with
  | next t => simp
  | fault f => exact absurd hs (noStepFaultsUnderTheInvariant s f h)
  | refused r => simp

/-- Settles O42: the two cases are those in which a step answers, and a step that does not answer refuses. -/
theorem admissionTable : Obligations.AdmissionTable := by
  intro s q rest hinv hi
  have hserved := hinv.exists_step_eq_next_iff hi
  exact ⟨hserved, hinv.exists_step_eq_refused_iff.trans (not_congr hserved)⟩

/-! ### The halted block (R137, R138) -/

theorem exec_refused_of_halted {s : State} (hl : s.lifecycle = .halted) (i : Instr) :
    ∃ r, exec i s = .refused r := by
  cases i with
  | build asb pb => exact ⟨_, (buildServedOnlyWhenUnconfigured s asb pb).2 (by rw [hl]; decide)⟩
  | translate va => exact ⟨_, exec_translate_refused (by rw [hl]; decide) va⟩

theorem step_refused_of_halted {s : State} (hl : s.lifecycle = .halted) {q : RequestWord} {rest : List Input}
    (hi : s.input = .request q :: rest) : ∃ r, step s = .refused r := by
  cases hd : decode q with
  | none => exact ⟨_, step_of_undecodable hi hd⟩
  | some i =>
    rw [step_of_request hi hd]
    exact exec_refused_of_halted (s := { s with input := rest }) hl i

/-- Settles O43: of the four things a step can do, the two that serve a request need another `STATE`. -/
theorem haltedIsLeftByResetOnly : Obligations.HaltedIsLeftByResetOnly := by
  intro s hl
  refine ⟨fun q rest hi => step_refused_of_halted hl hi, fun t hs => ?_⟩
  obtain ⟨-, rfl⟩ | ⟨rest, hi, rfl⟩ | ⟨_, _, _, _, -, -, hl', -⟩ | ⟨_, _, _, _, -, -, hl', -, -⟩ := step_cases hs
  case inl => exact .inl rfl
  case inr.inl => exact .inr ⟨rest, hi, resetEvent_lifecycle _⟩
  case inr.inr.inl => cases hl.symm.trans hl'
  case inr.inr.inr => cases hl.symm.trans hl'

/-! ### Idleness (R142) -/

/-- Settles O34. -/
theorem idleStepChangesNothing : Obligations.IdleStepChangesNothing := fun _ hi => step_of_idle hi

end Sys2Proof.Machine

/-! ## Reset and hazards: the reset event, runs between resets, the width of the length (70_reset_and_hazards.md) -/

namespace Sys2Proof.Machine

/-! ### The reset event (R160) -/

/-- Settles O36: the event writes `UNCONFIGURED`, and that alone decides the admission of both operations. -/
theorem resetEventUnconfigures : Obligations.ResetEventUnconfigures := by
  intro s rest hi
  have hl : (resetEvent { s with input := rest }).lifecycle = .unconfigured := resetEvent_lifecycle _
  refine ⟨_, step_of_reset hi, hl, fun asb pb => ⟨_, exec_build_of_unconfigured hl asb pb⟩, fun va => ?_, rfl, rfl, rfl⟩
  rw [exec_translate_refused (by rw [hl]; decide), hl]

/-! ### Runs between resets (R162, R163) -/

/-- What every step but a reset event keeps, every run without a reset event keeps. -/
theorem RunsTo.keeps_of_withinOneRun {P : State → Prop}
    (hstep : ∀ s t, P s → (∀ rest, s.input ≠ .reset :: rest) → step s = .next t → P t) {k : Nat} {s t : State}
    (hrun : RunsTo k s t) (hone : WithinOneRun k s) (hs : P s) : P t := by
  induction k generalizing s with
  | zero => exact (hrun : s = t) ▸ hs
  | succ k ih =>
    obtain ⟨u, hu, hrest⟩ := hrun
    exact ih hrest (hone.of_step hu) (hstep s u hs hone.head_ne_reset hu)

/-- Where a run stands that began in `UNCONFIGURED` with the responses `before` (R24, R162). -/
inductive RunStage (before : List Response) (s : State) : Prop where
  /-- No BUILD was served, so nothing was answered. -/
  | unbuilt (lifecycle : s.lifecycle = .unconfigured) (responses : s.responses = before)
  /-- A BUILD was answered `BuildOk`, and after it only TRANSLATE was served. -/
  | built (lifecycle : s.lifecycle = .ready) (rs : List Response)
      (responses : s.responses = before ++ .build .buildOk :: rs) (translations : ∀ r ∈ rs, ∃ x, r = .translate x)
  /-- A BUILD was answered with an error. -/
  | failed (lifecycle : s.lifecycle = .halted)

namespace RunStage

variable {before : List Response} {s t : State}

theorem withInput (h : RunStage before s) (rest : List Input) : RunStage before { s with input := rest } := by
  cases h with
  | unbuilt hl hr => exact .unbuilt hl hr
  | built hl rs hr hx => exact .built hl rs hr hx
  | failed hl => exact .failed hl

/-- The one BUILD of a run ends its first stage. -/
theorem buildServed (h : RunStage before s) (hl : s.lifecycle = .unconfigured) (asb pb : Nat) :
    RunStage before (buildServed asb pb s) := by
  cases h with
  | unbuilt _ hr =>
    obtain ⟨hready, hok⟩ | ⟨hhalted, -⟩ := buildServed_lifecycle_cases asb pb s
    · exact .built hready [] (by rw [hok, hr]) (by simp)
    · exact .failed hhalted
  | built hl' => cases hl.symm.trans hl'
  | failed hl' => cases hl.symm.trans hl'

/-- A translation is one more response after the `BuildOk`. -/
theorem respond_translate (h : RunStage before s) (hl : s.lifecycle = .ready) (x : TranslateResult) :
    RunStage before (respond (.translate x) s) := by
  cases h with
  | unbuilt hl' => cases hl.symm.trans hl'
  | built _ rs hr hx =>
    refine .built hl (rs ++ [.translate x]) (by simp [hr]) fun r hmem => ?_
    obtain hmem | hmem := List.mem_append.1 hmem
    · exact hx r hmem
    · exact ⟨x, List.mem_singleton.1 hmem⟩
  | failed hl' => cases hl.symm.trans hl'

theorem step (h : RunStage before s) (hi : ∀ rest, s.input ≠ .reset :: rest) (hs : step s = .next t) :
    RunStage before t := by
  obtain ⟨-, rfl⟩ | ⟨rest, hr, -⟩ | ⟨_, rest, asb, pb, -, -, hl, rfl⟩ | ⟨_, rest, _, x, -, -, hl, -, rfl⟩ :=
    step_cases hs
  case inl => exact h
  case inr.inl => exact absurd hr (hi rest)
  case inr.inr.inl => exact (h.withInput rest).buildServed hl asb pb
  case inr.inr.inr => exact (h.withInput rest).respond_translate hl x

end RunStage

/-- Settles O47: the stages of a run are kept by every step of it, and a good run does not end in the failed one. -/
theorem goodRunsEndReadyOrUnconfigured : Obligations.GoodRunsEndReadyOrUnconfigured := by
  intro k s hl ⟨hone, t, hrun, hne⟩
  have hstage : RunStage s.responses t :=
    hrun.keeps_of_withinOneRun (fun _ _ h hi hs => h.step hi hs) hone (.unbuilt hl rfl)
  refine ⟨t, hrun, ?_⟩
  cases hstage with
  | unbuilt hl' hr => exact .inr ⟨hl', hr⟩
  | built hl' rs hr hx => exact .inl ⟨hl', rs, hr, hx⟩
  | failed hl' => exact absurd hl' hne

/-! ### The length is no 32-bit quantity (R170) -/

/-- Settles O18: page size `2^0` asks for `2^32` entries, more than any capacity holds. -/
theorem lengthNeverWraps : Obligations.LengthNeverWraps := by
  intro s hl
  have hcap := (config_ptCapacity_range s.config).2
  exact (buildResourceExhaustion s 32 0 hl (by decide) (by decide) (by decide) (by decide)).1 (by omega)

end Sys2Proof.Machine

/-! ## Test vectors: the written-out request words (95_test_vectors.md section 2.3) -/

namespace Sys2Proof

/-- Settles O6: the fields of the four operation words are the operands; the last two words are reserved, one by a bit of
`rsv` and one by `op`. -/
theorem writtenOutWordsDecode : Obligations.WrittenOutWordsDecode := by
  refine ⟨?_, ?_, ?_, ?_, ?_, ?_⟩
  · exact (decode_eq_build_iff _ 32 4096).2 (by decide)
  · exact (decode_eq_translate_iff _ 0x00002000).2 (by decide)
  · exact (decode_eq_translate_iff _ 0xFFFFFFFF).2 (by decide)
  · exact (decode_eq_build_iff _ 63 8191).2 (by decide)
  · exact decode_eq_none_of_reserved (.inr (.inr (by decide)))
  · exact decode_eq_none_of_reserved (.inr (.inl (by decide)))

end Sys2Proof
